-- ==== Sys2Proof/Word.lean ====
section
/-! DEFINITION. The widths of the CHIP-8 core: bytes, instruction words, 4-bit fields and 12-bit addresses
(00_scope.md R6, R8; 30_encoding.md R71). -/

namespace Sys2Proof

/-- A memory byte, a general register, a timer (00_scope.md R6). -/
abbrev Byte := BitVec 8

/-- An instruction word; also the width of `I`, `pc` and a stack entry (00_scope.md R6). -/
abbrev Word := BitVec 16

/-- A 4-bit field: a register index, a key index or a sprite height (30_encoding.md R71). -/
abbrev Nibble := BitVec 4

/-- A 12-bit address field `nnn` (30_encoding.md R71). -/
abbrev Addr12 := BitVec 12

end Sys2Proof
end

