-- ==== Sys2Proof/Config.lean ====
section
/-! DEFINITION. The parameters the spec leaves open (00_scope.md R7) and the free value of `Cxnn`
(00_scope.md R13). Their default values stand in Machine/Params.lean. -/

namespace Sys2Proof

/-- What `Dxyn` does with pixels past the right or bottom edge (00_scope.md R7; 41_display.md R123, R124). -/
inductive EdgeMode where
  | clip
  | wrap
  deriving DecidableEq, Repr

/-- The open parameters of 00_scope.md R7, fixed for a machine. The spec makes them parameters of the step
relation; the model carries them in a read-only field of State.
DESIGN CHOICE, safe: statements hold for every configuration (log 2). -/
structure Config where
  /-- `FONT_BASE`: where the 16 digit glyphs of `Fx29` stand. -/
  fontBase : Addr12
  /-- `FONT_DATA`: 16 glyphs of 5 bytes. -/
  fontData : Vector Byte 80
  /-- `EDGE_MODE`. -/
  edgeMode : EdgeMode
  /-- `PC_ALIGN_CHECK`: whether a fetch at an odd pc faults. -/
  pcAlignCheck : Bool
  /-- `PROTECT_RESERVED`: whether an instruction's write into 0x000..0x1FF faults. -/
  protectReserved : Bool
  deriving DecidableEq, Repr

/-- `rand8()`: the byte of the n-th draw (00_scope.md R13; 44_alu.md R191: "any value 0..255, no law").
FREE VALUE without a body, so a claim holds for every sequence of draws.
DESIGN CHOICE in its form, safe (log 4). -/
opaque Config.rand8 : Nat → Byte

end Sys2Proof
end

