-- ==== Sys2Proof/Syntax.lean ====
section
/-! DEFINITION. The instructions of the CHIP-8 core: one constructor per row of spec/opcode_table.json
(30_encoding.md R75), in the table's order. Every field of the encoding is kept, the `y` that 8xy6 and 8xyE
do not read included (30_encoding.md R72), so that an instruction determines its word. -/

namespace Sys2Proof

/-- The 34 instructions. The field types carry their widths, so no ill-formed instruction can be written. -/
inductive Instr where
  /-- 00E0 -/
  | cls
  /-- 00EE -/
  | ret
  /-- 1nnn -/
  | jp (nnn : Addr12)
  /-- 2nnn -/
  | call (nnn : Addr12)
  /-- 3xnn -/
  | seImm (x : Nibble) (nn : Byte)
  /-- 4xnn -/
  | sneImm (x : Nibble) (nn : Byte)
  /-- 5xy0 -/
  | seReg (x y : Nibble)
  /-- 6xnn -/
  | ldImm (x : Nibble) (nn : Byte)
  /-- 7xnn -/
  | addImm (x : Nibble) (nn : Byte)
  /-- 8xy0 -/
  | ldReg (x y : Nibble)
  /-- 8xy1 -/
  | or (x y : Nibble)
  /-- 8xy2 -/
  | and (x y : Nibble)
  /-- 8xy3 -/
  | xor (x y : Nibble)
  /-- 8xy4 -/
  | addReg (x y : Nibble)
  /-- 8xy5 -/
  | sub (x y : Nibble)
  /-- 8xy6 -/
  | shr (x y : Nibble)
  /-- 8xy7 -/
  | subn (x y : Nibble)
  /-- 8xyE -/
  | shl (x y : Nibble)
  /-- 9xy0 -/
  | sneReg (x y : Nibble)
  /-- Annn -/
  | ldI (nnn : Addr12)
  /-- Bnnn -/
  | jpV0 (nnn : Addr12)
  /-- Cxnn -/
  | rnd (x : Nibble) (nn : Byte)
  /-- Dxyn -/
  | drw (x y n : Nibble)
  /-- Ex9E -/
  | skp (x : Nibble)
  /-- ExA1 -/
  | sknp (x : Nibble)
  /-- Fx07 -/
  | ldVxDt (x : Nibble)
  /-- Fx0A -/
  | ldVxK (x : Nibble)
  /-- Fx15 -/
  | ldDt (x : Nibble)
  /-- Fx18 -/
  | ldSt (x : Nibble)
  /-- Fx1E -/
  | addI (x : Nibble)
  /-- Fx29 -/
  | ldF (x : Nibble)
  /-- Fx33 -/
  | ldB (x : Nibble)
  /-- Fx55 -/
  | ldMemVx (x : Nibble)
  /-- Fx65 -/
  | ldVxMem (x : Nibble)
  deriving DecidableEq, Repr

end Sys2Proof
end

