-- ==== Sys2Proof/WellFormed.lean ====
section
/-! DEFINITION. Well-formedness: that an operand's number fits its field (30_encoding.md R71, R72), and that a
configuration's glyphs stand inside the reserved area (00_scope.md R7). -/

namespace Sys2Proof

/-- One operand: its value and the width of its field in bits. -/
structure Operand where
  value : Nat
  width : Nat
  deriving DecidableEq, Repr

/-- An operand fits its field (30_encoding.md R72: every immediate is unsigned). -/
def Operand.fits (o : Operand) : Bool := decide (o.value < 2 ^ o.width)

/-- A register index, a key index or a sprite height: 4 bits. -/
def Operand.nibble (v : Nat) : Operand := ⟨v, 4⟩

/-- An 8-bit immediate. -/
def Operand.byte (v : Nat) : Operand := ⟨v, 8⟩

/-- A 12-bit address. -/
def Operand.addr (v : Nat) : Operand := ⟨v, 12⟩

/-- The operands of an instruction, from the high bits of its word to the low ones (30_encoding.md R71). -/
def Instr.operands : Instr → List Operand
  | .cls | .ret => []
  | .jp nnn | .call nnn | .ldI nnn | .jpV0 nnn => [.addr nnn.toNat]
  | .seImm x nn | .sneImm x nn | .ldImm x nn | .addImm x nn | .rnd x nn => [.nibble x.toNat, .byte nn.toNat]
  | .seReg x y | .sneReg x y | .ldReg x y | .or x y | .and x y | .xor x y | .addReg x y | .sub x y | .shr x y
  | .subn x y | .shl x y => [.nibble x.toNat, .nibble y.toNat]
  | .drw x y n => [.nibble x.toNat, .nibble y.toNat, .nibble n.toNat]
  | .skp x | .sknp x | .ldVxDt x | .ldVxK x | .ldDt x | .ldSt x | .addI x | .ldF x | .ldB x | .ldMemVx x
  | .ldVxMem x => [.nibble x.toNat]

/-- Every operand fits its field. The field types make this hold of every `Instr`
(Laws/Encoding.lean, `wf_of_instr`); the check itself refuses operands that do not fit. -/
def Instr.wf (i : Instr) : Bool := i.operands.all Operand.fits

/-- The glyphs stand in the reserved area: `FONT_BASE + 80 <= 0x200` (00_scope.md R7). -/
abbrev Config.WellFormed (c : Config) : Prop := c.fontBase.toNat + 80 ≤ 0x200

end Sys2Proof
end

