-- ==== Sys2Proof/Decode.lean ====
section
/-! DEFINITION. Decoding (30_encoding.md R74), total on any word and on any bytes, rejecting by name; then the
encoder, from the layouts of R71 and the rows of R75; then the opcode map of R75 itself. -/

namespace Sys2Proof

/-- Why a decode gives no instruction. -/
inductive DecodeReject where
  /-- The word matches no row of R75 (30_encoding.md R73). The step raises `UnrecognizedInstruction`. -/
  | unrecognized (w : Word)
  /-- Fewer than the two bytes of an instruction are there (30_encoding.md R70). Only a byte list can be so. -/
  | truncated
  deriving DecidableEq, Repr

/-! ### Fields of the word (00_scope.md R8; 30_encoding.md R71) -/

/-- `op = w[15:12]`. -/
def fieldOp (w : Word) : Nibble := w.extractLsb' 12 4
/-- `x = w[11:8]`. -/
def fieldX (w : Word) : Nibble := w.extractLsb' 8 4
/-- `y = w[7:4]`. -/
def fieldY (w : Word) : Nibble := w.extractLsb' 4 4
/-- `n = w[3:0]`. -/
def fieldN (w : Word) : Nibble := w.extractLsb' 0 4
/-- `nn = w[7:0]`. -/
def fieldNN (w : Word) : Byte := w.extractLsb' 0 8
/-- `nnn = w[11:0]`. -/
def fieldNNN (w : Word) : Addr12 := w.extractLsb' 0 12

/-- The word of two bytes in memory order: high byte first (20_memory.md R58). -/
def wordOfBytes (hi lo : Byte) : Word := hi.setWidth 16 <<< 8 ||| lo.setWidth 16
/-- Bits 15..8 of a word, the byte at the lower address (20_memory.md R58). -/
def highByte (w : Word) : Byte := w.extractLsb' 8 8
/-- Bits 7..0 of a word, the byte at the higher address (20_memory.md R58). -/
def lowByte (w : Word) : Byte := w.extractLsb' 0 8

/-! ### Decode -/

/-- Family 8: the sub-opcode is `n` (30_encoding.md R74). -/
def decodeFamily8 (w : Word) : Except DecodeReject Instr :=
  match (fieldN w).toNat with
  | 0x0 => .ok (.ldReg (fieldX w) (fieldY w))
  | 0x1 => .ok (.or (fieldX w) (fieldY w))
  | 0x2 => .ok (.and (fieldX w) (fieldY w))
  | 0x3 => .ok (.xor (fieldX w) (fieldY w))
  | 0x4 => .ok (.addReg (fieldX w) (fieldY w))
  | 0x5 => .ok (.sub (fieldX w) (fieldY w))
  | 0x6 => .ok (.shr (fieldX w) (fieldY w))
  | 0x7 => .ok (.subn (fieldX w) (fieldY w))
  | 0xE => .ok (.shl (fieldX w) (fieldY w))
  | _ => .error (.unrecognized w)

/-- Family E: the sub-opcode is `nn` (30_encoding.md R74). -/
def decodeFamilyE (w : Word) : Except DecodeReject Instr :=
  if fieldNN w = 0x9E#8 then .ok (.skp (fieldX w))
  else if fieldNN w = 0xA1#8 then .ok (.sknp (fieldX w))
  else .error (.unrecognized w)

/-- Family F: the sub-opcode is `nn` (30_encoding.md R74). -/
def decodeFamilyF (w : Word) : Except DecodeReject Instr :=
  if fieldNN w = 0x07#8 then .ok (.ldVxDt (fieldX w))
  else if fieldNN w = 0x0A#8 then .ok (.ldVxK (fieldX w))
  else if fieldNN w = 0x15#8 then .ok (.ldDt (fieldX w))
  else if fieldNN w = 0x18#8 then .ok (.ldSt (fieldX w))
  else if fieldNN w = 0x1E#8 then .ok (.addI (fieldX w))
  else if fieldNN w = 0x29#8 then .ok (.ldF (fieldX w))
  else if fieldNN w = 0x33#8 then .ok (.ldB (fieldX w))
  else if fieldNN w = 0x55#8 then .ok (.ldMemVx (fieldX w))
  else if fieldNN w = 0x65#8 then .ok (.ldVxMem (fieldX w))
  else .error (.unrecognized w)

/-- `decode` of 30_encoding.md R74. It reads nothing but the word. -/
def decode (w : Word) : Except DecodeReject Instr :=
  match (fieldOp w).toNat with
  | 0x0 => if w = 0x00E0#16 then .ok .cls else if w = 0x00EE#16 then .ok .ret else .error (.unrecognized w)
  | 0x1 => .ok (.jp (fieldNNN w))
  | 0x2 => .ok (.call (fieldNNN w))
  | 0x3 => .ok (.seImm (fieldX w) (fieldNN w))
  | 0x4 => .ok (.sneImm (fieldX w) (fieldNN w))
  | 0x5 => if fieldN w = 0 then .ok (.seReg (fieldX w) (fieldY w)) else .error (.unrecognized w)
  | 0x6 => .ok (.ldImm (fieldX w) (fieldNN w))
  | 0x7 => .ok (.addImm (fieldX w) (fieldNN w))
  | 0x8 => decodeFamily8 w
  | 0x9 => if fieldN w = 0 then .ok (.sneReg (fieldX w) (fieldY w)) else .error (.unrecognized w)
  | 0xA => .ok (.ldI (fieldNNN w))
  | 0xB => .ok (.jpV0 (fieldNNN w))
  | 0xC => .ok (.rnd (fieldX w) (fieldNN w))
  | 0xD => .ok (.drw (fieldX w) (fieldY w) (fieldN w))
  | 0xE => decodeFamilyE w
  | _ => decodeFamilyF w

/-- Decode from bytes in memory order: the instruction and the bytes after it. Every instruction is two
bytes (30_encoding.md R70, R77). -/
def decodeBytes : List Byte → Except DecodeReject (Instr × List Byte)
  | hi :: lo :: rest =>
    match decode (wordOfBytes hi lo) with
    | .ok i => .ok (i, rest)
    | .error e => .error e
  | _ => .error .truncated

/-! ### Encode -/

/-- Layout `A`: `op`, `nnn` (30_encoding.md R71). -/
def layoutA (op : Nibble) (nnn : Addr12) : Word := op.setWidth 16 <<< 12 ||| nnn.setWidth 16
/-- Layout `XNN`: `op`, `x`, `nn` (30_encoding.md R71); also layout `X`, whose `nn` is fixed. -/
def layoutXNN (op x : Nibble) (nn : Byte) : Word :=
  op.setWidth 16 <<< 12 ||| x.setWidth 16 <<< 8 ||| nn.setWidth 16
/-- Layout `XYN`: `op`, `x`, `y`, `n` (30_encoding.md R71); also layout `XY`, whose `n` is fixed. -/
def layoutXYN (op x y n : Nibble) : Word :=
  op.setWidth 16 <<< 12 ||| x.setWidth 16 <<< 8 ||| y.setWidth 16 <<< 4 ||| n.setWidth 16

/-- The word of an instruction (30_encoding.md R71, R75). -/
def encode : Instr → Word
  | .cls => 0x00E0#16
  | .ret => 0x00EE#16
  | .jp nnn => layoutA 0x1 nnn
  | .call nnn => layoutA 0x2 nnn
  | .seImm x nn => layoutXNN 0x3 x nn
  | .sneImm x nn => layoutXNN 0x4 x nn
  | .seReg x y => layoutXYN 0x5 x y 0x0
  | .ldImm x nn => layoutXNN 0x6 x nn
  | .addImm x nn => layoutXNN 0x7 x nn
  | .ldReg x y => layoutXYN 0x8 x y 0x0
  | .or x y => layoutXYN 0x8 x y 0x1
  | .and x y => layoutXYN 0x8 x y 0x2
  | .xor x y => layoutXYN 0x8 x y 0x3
  | .addReg x y => layoutXYN 0x8 x y 0x4
  | .sub x y => layoutXYN 0x8 x y 0x5
  | .shr x y => layoutXYN 0x8 x y 0x6
  | .subn x y => layoutXYN 0x8 x y 0x7
  | .shl x y => layoutXYN 0x8 x y 0xE
  | .sneReg x y => layoutXYN 0x9 x y 0x0
  | .ldI nnn => layoutA 0xA nnn
  | .jpV0 nnn => layoutA 0xB nnn
  | .rnd x nn => layoutXNN 0xC x nn
  | .drw x y n => layoutXYN 0xD x y n
  | .skp x => layoutXNN 0xE x 0x9E
  | .sknp x => layoutXNN 0xE x 0xA1
  | .ldVxDt x => layoutXNN 0xF x 0x07
  | .ldVxK x => layoutXNN 0xF x 0x0A
  | .ldDt x => layoutXNN 0xF x 0x15
  | .ldSt x => layoutXNN 0xF x 0x18
  | .addI x => layoutXNN 0xF x 0x1E
  | .ldF x => layoutXNN 0xF x 0x29
  | .ldB x => layoutXNN 0xF x 0x33
  | .ldMemVx x => layoutXNN 0xF x 0x55
  | .ldVxMem x => layoutXNN 0xF x 0x65

/-- The two bytes of an instruction in memory order (30_encoding.md R70). -/
def encodeBytes (i : Instr) : List Byte := [highByte (encode i), lowByte (encode i)]

/-- The instruction the decoder reads from an instruction word whose bits are `w`, of which the table gives
`nbits`: the bits above them are 0. The word is laid out as the hardware stores it, high byte first
(20_memory.md R58), and given to the byte decoder. -/
def decodeTableWord (nbits w : Nat) : Option Instr :=
  let word : Word := BitVec.ofNat 16 (w % 2 ^ nbits)
  match decodeBytes [highByte word, lowByte word] with
  | .ok (i, _) => some i
  | .error _ => none

/-! ### The opcode map -/

/-- A row of the opcode map: its fixed bits and their values (30_encoding.md R75). -/
structure OpRow where
  name : String
  pattern : Word
  mask : Word
  deriving DecidableEq, Repr

/-- A word matches a row when it equals the pattern in every fixed bit: `(w & mask) = match` (30_encoding.md R73). -/
def OpRow.recognizes (r : OpRow) (w : Word) : Bool := w &&& r.mask == r.pattern

/-- Rows of the families 0 to 7. -/
def opcodeRowsLow : List OpRow :=
  [⟨"CLS", 0x00E0, 0xFFFF⟩, ⟨"RET", 0x00EE, 0xFFFF⟩, ⟨"JP", 0x1000, 0xF000⟩, ⟨"CALL", 0x2000, 0xF000⟩,
   ⟨"SE_imm", 0x3000, 0xF000⟩, ⟨"SNE_imm", 0x4000, 0xF000⟩, ⟨"SE_reg", 0x5000, 0xF00F⟩,
   ⟨"LD_imm", 0x6000, 0xF000⟩, ⟨"ADD_imm", 0x7000, 0xF000⟩]

/-- Rows of the family 8. -/
def opcodeRows8 : List OpRow :=
  [⟨"LD_reg", 0x8000, 0xF00F⟩, ⟨"OR", 0x8001, 0xF00F⟩, ⟨"AND", 0x8002, 0xF00F⟩, ⟨"XOR", 0x8003, 0xF00F⟩,
   ⟨"ADD_reg", 0x8004, 0xF00F⟩, ⟨"SUB", 0x8005, 0xF00F⟩, ⟨"SHR", 0x8006, 0xF00F⟩, ⟨"SUBN", 0x8007, 0xF00F⟩,
   ⟨"SHL", 0x800E, 0xF00F⟩]

/-- Rows of the families 9 to E. -/
def opcodeRowsHigh : List OpRow :=
  [⟨"SNE_reg", 0x9000, 0xF00F⟩, ⟨"LD_I", 0xA000, 0xF000⟩, ⟨"JP_V0", 0xB000, 0xF000⟩, ⟨"RND", 0xC000, 0xF000⟩,
   ⟨"DRW", 0xD000, 0xF000⟩, ⟨"SKP", 0xE09E, 0xF0FF⟩, ⟨"SKNP", 0xE0A1, 0xF0FF⟩]

/-- Rows of the family F. -/
def opcodeRowsF : List OpRow :=
  [⟨"LD_Vx_DT", 0xF007, 0xF0FF⟩, ⟨"LD_Vx_K", 0xF00A, 0xF0FF⟩, ⟨"LD_DT", 0xF015, 0xF0FF⟩,
   ⟨"LD_ST", 0xF018, 0xF0FF⟩, ⟨"ADD_I", 0xF01E, 0xF0FF⟩, ⟨"LD_F", 0xF029, 0xF0FF⟩, ⟨"LD_B", 0xF033, 0xF0FF⟩,
   ⟨"LD_mem_Vx", 0xF055, 0xF0FF⟩, ⟨"LD_Vx_mem", 0xF065, 0xF0FF⟩]

/-- The opcode map of 30_encoding.md R75: one row per instruction, in the table's order. -/
def opcodeTable : List OpRow := opcodeRowsLow ++ opcodeRows8 ++ opcodeRowsHigh ++ opcodeRowsF

/-- The name of an instruction in the opcode map (30_encoding.md R75, second column). -/
def mnemonic : Instr → String
  | .cls => "CLS" | .ret => "RET" | .jp _ => "JP" | .call _ => "CALL"
  | .seImm _ _ => "SE_imm" | .sneImm _ _ => "SNE_imm" | .seReg _ _ => "SE_reg"
  | .ldImm _ _ => "LD_imm" | .addImm _ _ => "ADD_imm" | .ldReg _ _ => "LD_reg"
  | .or _ _ => "OR" | .and _ _ => "AND" | .xor _ _ => "XOR" | .addReg _ _ => "ADD_reg"
  | .sub _ _ => "SUB" | .shr _ _ => "SHR" | .subn _ _ => "SUBN" | .shl _ _ => "SHL"
  | .sneReg _ _ => "SNE_reg" | .ldI _ => "LD_I" | .jpV0 _ => "JP_V0" | .rnd _ _ => "RND"
  | .drw _ _ _ => "DRW" | .skp _ => "SKP" | .sknp _ => "SKNP" | .ldVxDt _ => "LD_Vx_DT"
  | .ldVxK _ => "LD_Vx_K" | .ldDt _ => "LD_DT" | .ldSt _ => "LD_ST" | .addI _ => "ADD_I"
  | .ldF _ => "LD_F" | .ldB _ => "LD_B" | .ldMemVx _ => "LD_mem_Vx" | .ldVxMem _ => "LD_Vx_mem"

end Sys2Proof
end

