-- ==== Sys2Proof/Machine/Params.lean ====
section
/-! DEFINITION. The parameters of the core: the constants of 00_scope.md R6 and the default values of the open
parameters of 00_scope.md R7. -/

namespace Sys2Proof.Machine

/-- `MEM_SIZE`: addresses 0x000 to 0xFFF (00_scope.md R6). -/
def memSize : Nat := 0x1000
/-- `RESERVED_HI`: the last address of the reserved area (00_scope.md R6). -/
def reservedHi : Nat := 0x1FF
/-- `LOAD_BASE`: where an image starts, and the entry point (00_scope.md R6; 70_reset_and_hazards.md R340). -/
def loadBase : Nat := 0x200
/-- `TIMER_HZ`: ticks per second (00_scope.md R6). -/
def timerHz : Nat := 60

/-- `FONT_DATA` by default: the 16 glyphs of 5 bytes of 10_state.md R33 (the spec marks the table "from general
knowledge, not in source"). DESIGN CHOICE, unsafe where a chip's glyphs differ (log 3). -/
def defaultFontData : Vector Byte 80 :=
  #v[0xF0, 0x90, 0x90, 0x90, 0xF0,
     0x20, 0x60, 0x20, 0x20, 0x70,
     0xF0, 0x10, 0xF0, 0x80, 0xF0,
     0xF0, 0x10, 0xF0, 0x10, 0xF0,
     0x90, 0x90, 0xF0, 0x10, 0x10,
     0xF0, 0x80, 0xF0, 0x10, 0xF0,
     0xF0, 0x80, 0xF0, 0x90, 0xF0,
     0xF0, 0x10, 0x20, 0x40, 0x40,
     0xF0, 0x90, 0xF0, 0x90, 0xF0,
     0xF0, 0x90, 0xF0, 0x10, 0xF0,
     0xF0, 0x90, 0xF0, 0x90, 0x90,
     0xE0, 0x90, 0xE0, 0x90, 0xE0,
     0xF0, 0x80, 0x80, 0x80, 0xF0,
     0xE0, 0x90, 0x90, 0x90, 0xE0,
     0xF0, 0x80, 0xF0, 0x80, 0xF0,
     0xF0, 0x80, 0xF0, 0x80, 0x80]

/-- The default configuration of 00_scope.md R7. DESIGN CHOICE, unsafe where a chip differs (log 3). -/
def defaultConfig : Config where
  fontBase := 0x050
  fontData := defaultFontData
  edgeMode := .clip
  pcAlignCheck := true
  protectReserved := true

end Sys2Proof.Machine
end

