-- ==== Sys2Proof/Machine/State.lean ====
section
/-! DEFINITION. The state of the core (10_state.md R20 to R36), its reset value (10_state.md R37;
70_reset_and_hazards.md R340, R341), and the host interface's stop reasons. -/

namespace Sys2Proof.Machine

/-- The kinds of fault a step can raise (60_exceptions.md R300). -/
inductive FaultKind where
  /-- Code 1, by fetch: `pc > 0xFFE`. -/
  | outOfBoundsFetch
  /-- Code 2, by decode: the word matches no row. -/
  | unrecognizedInstruction
  /-- Code 3, by 2nnn: `sp = 16`. -/
  | stackOverflow
  /-- Code 4, by 00EE: `sp = 0`. -/
  | stackUnderflow
  /-- Code 5, by fetch: `PC_ALIGN_CHECK` and `pc` odd. -/
  | misalignedFetch
  /-- Code 6, by Dxyn, Fx33, Fx55, Fx65: the data range passes 0xFFF. -/
  | outOfBoundsAccess
  /-- Code 7, by Fx33, Fx55: `PROTECT_RESERVED` and the range starts at or below 0x1FF. -/
  | reservedWrite
  /-- Code 8, by Ex9E, ExA1, Fx29: `V[x] > 15`. -/
  | operandOutOfRange
  deriving DecidableEq, Repr

/-- A fault record (10_state.md R31). -/
structure FaultRecord where
  kind : FaultKind
  /-- The address of the instruction whose step faulted. -/
  addr : Word
  /-- The instruction word, or none for the two fetch faults. -/
  word : Option Word
  deriving DecidableEq, Repr

/-- The engine's state-machine state (10_state.md R30). -/
inductive Mode where
  /-- `step()` fetches and executes. -/
  | running
  /-- `Fx0A` waits for a key-down transition; the key's index goes to `V[t]`. -/
  | suspended (t : Nibble)
  /-- A fault has halted the engine; only `load` leaves this state. -/
  | halted (r : FaultRecord)
  deriving DecidableEq, Repr

/-- The memory's cells that do not hold their reset contents, by rising address (20_memory.md R50; log 7). -/
abbrev Memory := List Host.Cell

/-- `fb[c][r]`: column c in 0..63, row r in 0..31, true = lit (10_state.md R28). -/
abbrev Framebuffer := Vector (Vector Bool 32) 64

/-- The core's state: the twelve pieces of 10_state.md R20 under the spec's names, then the model's own two fields. -/
structure State where
  /-- Memory (10_state.md R32; 20_memory.md R50). -/
  mem : Memory
  /-- The general registers (10_state.md R21). `V[15]` is `VF` (R22). -/
  V : Vector Byte 16
  /-- The index register (10_state.md R23). -/
  I : Word
  /-- The program counter (10_state.md R24). -/
  pc : Word
  /-- The return addresses (10_state.md R25). -/
  stack : Vector Word 16
  /-- The call-stack depth, 0..16 (10_state.md R25). -/
  sp : Fin 17
  /-- The delay timer (10_state.md R26). -/
  DT : Byte
  /-- The sound timer (10_state.md R26). -/
  ST : Byte
  /-- The timer accumulator, in seconds (10_state.md R27). -/
  acc : Rat
  /-- The framebuffer (10_state.md R28). -/
  fb : Framebuffer
  /-- The input latch's key states, true = pressed (10_state.md R29). -/
  keys : Vector Bool 16
  /-- The engine state (10_state.md R30). -/
  mode : Mode
  /-- The configuration, which nothing writes (00_scope.md R7). The model's own field: DESIGN CHOICE, safe (log 2). -/
  cfg : Config
  /-- How many draws `Cxnn` has taken (00_scope.md R13). The model's own field: DESIGN CHOICE, safe (log 4). -/
  draws : Nat
  deriving DecidableEq, Repr

/-- The machine stops with a fault. NO CONSTRUCTOR: every fault of 60_exceptions.md R300 has an entry the spec
describes (R302: `mode <- Halted(rec)`), so a step that faults ANSWERS A NEXT STATE, in which `mode` is halted and the
host operations still work. DEDUCED, safe (log 1). -/
inductive Fault where
  deriving DecidableEq, Repr

/-- The model gives no meaning. -/
inductive Refusal where
  /-- Raised by an arm of `exec` whose instruction has no meaning yet; no arm raises it now. Safe: the model stops. -/
  | notModelled (mnemonic : String)
  /-- Raised by the host operation `set_key_state` for an index outside 0..15, which is no operation of the core
  (48_host_interface.md R273; 93_implementation_defined.md K14). Safe: the model stops. -/
  | keyIndexOutOfRange (k : Nat)
  /-- Raised by the host operation `advance_timers` for a negative elapsed time, which 60_exceptions.md R312 does not
  admit. DEDUCED, safe: the model stops (log 9). -/
  | negativeElapsed
  deriving DecidableEq, Repr

/-- The state at power-on under a configuration: what `load` of an empty image leaves
(10_state.md R37; 70_reset_and_hazards.md R340, R341). Memory lists nothing: every address holds its reset contents. -/
def State.powerOn (c : Config) : State where
  mem := []
  V := Vector.replicate 16 0
  I := 0
  pc := BitVec.ofNat 16 loadBase
  stack := Vector.replicate 16 0
  sp := 0
  DT := 0
  ST := 0
  acc := 0
  fb := Vector.replicate 64 (Vector.replicate 32 false)
  keys := Vector.replicate 16 false
  mode := .running
  cfg := c
  draws := 0

/-- The machine right after reset, under the default configuration (00_scope.md R7; log 3). -/
def State.reset : State := State.powerOn defaultConfig

end Sys2Proof.Machine
end

