-- ==== Sys2Proof/Machine/Ops.lean ====
section
/-! DEFINITION. The named operations over memory, registers, call stack and framebuffer, the entry of a fault, the
resume of a suspended engine, and the execute-and-commit frame every instruction runs in. -/

namespace Sys2Proof.Machine

/-! ### Memory -/

/-- What an address reads as at reset, and so what an address memory does not list reads as: `FONT_DATA` at
`FONT_BASE`, 0x00 elsewhere (10_state.md R37; log 7). -/
def resetByte (c : Config) (a : Nat) : Byte :=
  if h : c.fontBase.toNat ≤ a ∧ a < c.fontBase.toNat + 80 then c.fontData[a - c.fontBase.toNat]'(by omega) else 0

/-- The byte at an address: the listed one, or what `d` gives for an unlisted address. -/
def Memory.read (d : Nat → Byte) : Memory → Nat → Byte
  | [], a => d a
  | (k, v) :: m, a => if k = a then v else Memory.read d m a

/-- Memory without the cell at an address. -/
def Memory.remove (m : Memory) (a : Nat) : Memory := m.filter fun c => c.1 ≠ a

/-- Memory with a cell put before the first cell of a higher address. -/
def Memory.put : Memory → Nat → Byte → Memory
  | [], a, b => [(a, b)]
  | (k, v) :: m, a, b => if a < k then (a, b) :: (k, v) :: m else (k, v) :: Memory.put m a b

/-- Write one byte; writing what an unlisted address reads as leaves the address unlisted. -/
def Memory.write (d : Nat → Byte) (m : Memory) (a : Nat) (b : Byte) : Memory :=
  if b = d a then Memory.remove m a else Memory.put (Memory.remove m a) a b

/-- Write bytes to ascending addresses (20_memory.md R58). -/
def Memory.writeList (d : Nat → Byte) : Memory → Nat → List Byte → Memory
  | m, _, [] => m
  | m, a, b :: bs => Memory.writeList d (Memory.write d m a b) (a + 1) bs

/-- The canonical form: strictly rising addresses inside the address space, and no cell equal to what an unlisted
address reads as. -/
abbrev Memory.wf (d : Nat → Byte) (m : Memory) : Prop :=
  m.Pairwise (fun p q => p.1 < q.1) ∧ ∀ p ∈ m, p.1 < memSize ∧ p.2 ≠ d p.1

/-- `mem[a]`. -/
def State.readByte (s : State) (a : Nat) : Byte := Memory.read (resetByte s.cfg) s.mem a

/-- The 16-bit word at `a`, high byte at the lower address (20_memory.md R58). -/
def State.wordAt (s : State) (a : Nat) : Word := wordOfBytes (s.readByte a) (s.readByte (a + 1))

/-- Write bytes from address `a` up, with no check. -/
def State.storeBytes (s : State) (a : Nat) (bytes : List Byte) : State :=
  { s with mem := Memory.writeList (resetByte s.cfg) s.mem a bytes }

/-- A range of `n` bytes at `a` passes the last address. An empty range never does (20_memory.md R55, R56). -/
def pastEnd (a n : Nat) : Bool := decide (1 ≤ n ∧ a + n - 1 > 0xFFF)

/-- `MemRead(addr, n)` (20_memory.md R55). -/
def State.memRead (s : State) (a n : Nat) : Except FaultKind (List Byte) :=
  if pastEnd a n then .error .outOfBoundsAccess
  else .ok ((List.range n).map fun k => s.readByte (a + k))

/-- `MemWrite(addr, n, bytes)`: the whole range is checked before any byte is written, bounds first
(20_memory.md R56). -/
def State.memWrite (s : State) (a : Nat) (bytes : List Byte) : Except FaultKind State :=
  if pastEnd a bytes.length then .error .outOfBoundsAccess
  else if s.cfg.protectReserved && decide (1 ≤ bytes.length ∧ a ≤ reservedHi) then .error .reservedWrite
  else .ok (s.storeBytes a bytes)

/-! ### General registers -/

/-- `V[x]` (00_scope.md R10). -/
def State.reg (s : State) (x : Nibble) : Byte := s.V[x.toNat]'x.isLt

/-- `V[x] <- v` (00_scope.md R10). -/
def State.setReg (s : State) (x : Nibble) (v : Byte) : State := { s with V := s.V.set x.toNat v x.isLt }

/-! ### Program counter -/

/-- `pc <- a`. -/
def State.setPc (s : State) (a : Word) : State := { s with pc := a }

/-- The default advance `pc <- pc + 2` (40_cycle.md R105). -/
def State.advance (s : State) : State := s.setPc (s.pc + 2)

/-- `skip_if(c)`: 2 more on an advanced pc (40_cycle.md R109). -/
def State.skipIf (s : State) (c : Bool) : State := if c then s.setPc (s.pc + 2) else s

/-! ### Call stack -/

/-- Push a return address; a full stack raises `StackOverflow` (10_state.md R25; 42_control_flow.md R142). -/
def State.push (s : State) (a : Word) : Except FaultKind State :=
  if h : s.sp.val < 16 then
    .ok { s with stack := s.stack.set s.sp.val a h, sp := ⟨s.sp.val + 1, by omega⟩ }
  else .error .stackOverflow

/-- Pop the top into `pc`; an empty stack raises `StackUnderflow`. The popped entry keeps its old value
(42_control_flow.md R140). -/
def State.popToPc (s : State) : Except FaultKind State :=
  if h : 0 < s.sp.val then
    .ok { s with sp := ⟨s.sp.val - 1, by omega⟩, pc := s.stack[s.sp.val - 1]'(by omega) }
  else .error .stackUnderflow

/-! ### Framebuffer -/

/-- `fb[c][r]` (10_state.md R28). -/
def Framebuffer.pixel (fb : Framebuffer) (c : Fin 64) (r : Fin 32) : Bool := fb[c.val][r.val]

/-- `fb[c][r] <- fb[c][r] ^ 1` (41_display.md R121). -/
def Framebuffer.flip (fb : Framebuffer) (c : Fin 64) (r : Fin 32) : Framebuffer :=
  fb.set c.val (fb[c.val].set r.val (!fb[c.val][r.val]))

/-- Every pixel unlit (41_display.md R120). -/
def Framebuffer.clear : Framebuffer := Vector.replicate 64 (Vector.replicate 32 false)

/-! ### Faults and resume -/

/-- The number 60_exceptions.md R300 enumerates a fault kind by; nothing in the core reads it. -/
def FaultKind.code : FaultKind → Nat
  | .outOfBoundsFetch => 1
  | .unrecognizedInstruction => 2
  | .stackOverflow => 3
  | .stackUnderflow => 4
  | .misalignedFetch => 5
  | .outOfBoundsAccess => 6
  | .reservedWrite => 7
  | .operandOutOfRange => 8

/-- TAKING A FAULT, the one operation of 60_exceptions.md R302: nothing of the step is committed, `mode` becomes
`Halted((kind, addr, word))` and nothing else changes. `s` is the state the step began in, so `s.pc` is the address of
the faulting instruction (10_state.md R31). There is no vector, no handler and no saved status. -/
def State.takeFault (s : State) (kind : FaultKind) (word : Option Word) : State :=
  { s with mode := .halted { kind := kind, addr := s.pc, word := word } }

/-- LEAVING A WAIT: the resume of `Fx0A` (46_timers_input.md R254), `V[t] <- k` and `mode <- Running`. A fault has no
return: only `load` leaves `Halted` (60_exceptions.md R304). -/
def State.resume (s : State) (t k : Nibble) : State := { s.setReg t (k.setWidth 8) with mode := .running }

/-! ### Execute and commit -/

/-- The execute part of a step (40_cycle.md R105, R107, R110; 00_scope.md R12). `s` is the state the step began in; the
instruction's pseudocode `body` runs on a copy whose pc is advanced. If it ends, the copy is committed; if it raises,
nothing is, and the fault is taken with the instruction's word. -/
def runInstr (i : Instr) (s : State) (body : State → Except FaultKind State) :
    Host.Outcome State Fault Refusal :=
  match body s.advance with
  | .ok t => .next t
  | .error kind => .next (s.takeFault kind (some (encode i)))

end Sys2Proof.Machine
end

