-- ==== Sys2Proof/Machine/Cycle.lean ====
section
/-! DEFINITION. The step before execute (40_cycle.md R101 to R106, R110): the mode gate, the fetch with its checks in
order, and the decode. -/

namespace Sys2Proof.Machine

/-- `Fetch(pc)`: the bounds check, then the alignment check, then the big-endian word (40_cycle.md R102 to R104). -/
def State.fetch (s : State) : Except FaultKind Word :=
  if s.pc.toNat > 0xFFE then .error .outOfBoundsFetch
  else if s.cfg.pcAlignCheck && decide (s.pc.toNat % 2 = 1) then .error .misalignedFetch
  else .ok (s.wordAt s.pc.toNat)

/-- What the front of a step leaves to do. -/
inductive FrontEnd where
  /-- The step ends here, in this state. -/
  | done (t : State)
  /-- The step executes this instruction. -/
  | exec (i : Instr)
  deriving DecidableEq, Repr

/-- Mode gate, fetch, decode (40_cycle.md R110). A suspended or halted engine changes nothing (R101). -/
def State.frontEnd (s : State) : FrontEnd :=
  match s.mode with
  | .halted _ => .done s
  | .suspended _ => .done s
  | .running =>
    match s.fetch with
    | .error kind => .done (s.takeFault kind none)
    | .ok w =>
      match decode w with
      | .ok i => .exec i
      | .error _ => .done (s.takeFault .unrecognizedInstruction (some w))

/-- A state in which the next step fetches: `mode` running, and a `pc` no fetch can use replaced by the entry point
(log 8). -/
def State.readyToFetch (s : State) : State :=
  match s.fetch with
  | .ok _ => { s with mode := .running }
  | .error _ => { s with mode := .running, pc := BitVec.ofNat 16 loadBase }

/-- The instruction word `w` of `nbits` table bits stored where the next step fetches, high byte first (log 8). -/
def State.placeWord (s : State) (nbits w : Nat) : State :=
  let word : Word := BitVec.ofNat 16 (w % 2 ^ nbits)
  s.readyToFetch.storeBytes s.readyToFetch.pc.toNat [highByte word, lowByte word]

end Sys2Proof.Machine
end

