-- ==== Sys2Proof/Machine/Flags.lean ====
section
/-! DEFINITION. The arithmetic with a flag (44_alu.md R186 to R190): each function gives the 8-bit result and the flag,
computed exactly and narrowed at the end (44_alu.md R192); and the order of the two writes (40_cycle.md R108). -/

namespace Sys2Proof.Machine

/-- A flag as a register value: 1 or 0. -/
def flagByte (f : Bool) : Byte := if f then 1 else 0

/-- `a + b`: the sum modulo 256, and whether the unwrapped sum exceeds 255 (44_alu.md R186). -/
def addCarry (a b : Byte) : Byte × Bool :=
  let sum := a.toNat + b.toNat
  (BitVec.ofNat 8 (sum % 256), decide (sum > 255))

/-- `a - b`: the difference modulo 256, and whether there is no borrow, `a >= b` (44_alu.md R187, R189). -/
def subNoBorrow (a b : Byte) : Byte × Bool :=
  (BitVec.ofNat 8 ((a.toNat + 256 - b.toNat) % 256), decide (a.toNat ≥ b.toNat))

/-- `a >> 1`, and bit 0 of `a` (44_alu.md R188). -/
def shiftRight (a : Byte) : Byte × Bool := (a >>> 1, a.getLsbD 0)

/-- `(a << 1) mod 256`, and bit 7 of `a` (44_alu.md R190). -/
def shiftLeft (a : Byte) : Byte × Bool := (a <<< 1, a.getLsbD 7)

/-- `VF <- f` (10_state.md R22). -/
def State.setFlag (s : State) (f : Bool) : State := s.setReg 15 (flagByte f)

/-- `V[x] <- result`, then `VF <- flag`, so that with `x = 15` VF ends holding the flag (40_cycle.md R108). -/
def State.setRegThenFlag (s : State) (x : Nibble) (r : Byte × Bool) : State := (s.setReg x r.1).setFlag r.2

end Sys2Proof.Machine
end

