-- ==== Sys2Proof/Machine/Operands.lean ====
section
/-! DEFINITION. The operand forms beyond a plain register: a register whose value is a 4-bit index, the address an
immediate or a register gives, the register range `V[0..x]`, and the decimal digits of a register. -/

namespace Sys2Proof.Machine

/-- The value of a register as a 4-bit index (a key of Ex9E, ExA1; a digit of Fx29); a value above 15 raises
`OperandOutOfRange` (43_skips.md R164, R165; 45_index_memory.md R222). -/
def State.regIndex (s : State) (x : Nibble) : Except FaultKind Nibble :=
  if (s.reg x).toNat > 15 then .error .operandOutOfRange else .ok (BitVec.ofNat 4 (s.reg x).toNat)

/-- `keys[k]` (10_state.md R29). -/
def State.key (s : State) (k : Nibble) : Bool := s.keys[k.toNat]'k.isLt

/-- `zext_16(nnn)` (30_encoding.md R72). -/
def zext16 (nnn : Addr12) : Word := nnn.setWidth 16

/-- The address a data access starts at: `I`, never wrapped (45_index_memory.md R226; 20_memory.md R51). -/
def State.dataAddr (s : State) : Nat := s.I.toNat

/-- The indices 0, 1, ... of the register range of Fx55 and Fx65 (45_index_memory.md R224, R225): `n` of them. -/
def regRange (n : Nat) : List Nibble := (List.range n).map (BitVec.ofNat 4)

/-- `V[0], V[1], ..., V[x]` (45_index_memory.md R224). -/
def State.regsUpTo (s : State) (x : Nibble) : List Byte := (regRange (x.toNat + 1)).map s.reg

/-- `for k: V[k] <- b[k]`, from register `k` up (45_index_memory.md R225). -/
def State.setRegsFrom (s : State) : Nat → List Byte → State
  | _, [] => s
  | k, b :: bs => (s.setReg (BitVec.ofNat 4 k) b).setRegsFrom (k + 1) bs

/-- Hundreds, tens and ones of a byte (45_index_memory.md R223). -/
def decimalDigits (v : Byte) : List Byte :=
  [BitVec.ofNat 8 (v.toNat / 100), BitVec.ofNat 8 (v.toNat / 10 % 10), BitVec.ofNat 8 (v.toNat % 10)]

/-- `FONT_BASE + 5 * d` (45_index_memory.md R222). -/
def glyphAddr (c : Config) (d : Nibble) : Word := BitVec.ofNat 16 (c.fontBase.toNat + 5 * d.toNat)

end Sys2Proof.Machine
end

