-- ==== Sys2Proof/Machine/Alu.lean ====
section
/-! DEFINITION. The register and arithmetic instructions 6xnn, 7xnn, 8xy0 to 8xyE and Cxnn (44_alu.md). None of them
faults. -/

namespace Sys2Proof.Machine

/-- 6xnn, LD_imm (44_alu.md R180). -/
def execLdImm (x : Nibble) (nn : Byte) (s : State) : Host.Outcome State Fault Refusal :=
  runInstr (.ldImm x nn) s fun s => .ok (s.setReg x nn)

/-- 7xnn, ADD_imm (44_alu.md R181): no flag. -/
def execAddImm (x : Nibble) (nn : Byte) (s : State) : Host.Outcome State Fault Refusal :=
  runInstr (.addImm x nn) s fun s => .ok (s.setReg x (s.reg x + nn))

/-- 8xy0, LD_reg (44_alu.md R182). -/
def execLdReg (x y : Nibble) (s : State) : Host.Outcome State Fault Refusal :=
  runInstr (.ldReg x y) s fun s => .ok (s.setReg x (s.reg y))

/-- 8xy1, OR (44_alu.md R183): VF is not reset. -/
def execOr (x y : Nibble) (s : State) : Host.Outcome State Fault Refusal :=
  runInstr (.or x y) s fun s => .ok (s.setReg x (s.reg x ||| s.reg y))

/-- 8xy2, AND (44_alu.md R184): VF is not reset. -/
def execAnd (x y : Nibble) (s : State) : Host.Outcome State Fault Refusal :=
  runInstr (.and x y) s fun s => .ok (s.setReg x (s.reg x &&& s.reg y))

/-- 8xy3, XOR (44_alu.md R185): VF is not reset. -/
def execXor (x y : Nibble) (s : State) : Host.Outcome State Fault Refusal :=
  runInstr (.xor x y) s fun s => .ok (s.setReg x (s.reg x ^^^ s.reg y))

/-- 8xy4, ADD_reg (44_alu.md R186): VF is the carry. -/
def execAddReg (x y : Nibble) (s : State) : Host.Outcome State Fault Refusal :=
  runInstr (.addReg x y) s fun s => .ok (s.setRegThenFlag x (addCarry (s.reg x) (s.reg y)))

/-- 8xy5, SUB (44_alu.md R187): VF is the negated borrow of V[x] - V[y]. -/
def execSub (x y : Nibble) (s : State) : Host.Outcome State Fault Refusal :=
  runInstr (.sub x y) s fun s => .ok (s.setRegThenFlag x (subNoBorrow (s.reg x) (s.reg y)))

/-- 8xy6, SHR (44_alu.md R188): V[x] is shifted; y is not read. -/
def execShr (x y : Nibble) (s : State) : Host.Outcome State Fault Refusal :=
  runInstr (.shr x y) s fun s => .ok (s.setRegThenFlag x (shiftRight (s.reg x)))

/-- 8xy7, SUBN (44_alu.md R189): VF is the negated borrow of V[y] - V[x]. -/
def execSubn (x y : Nibble) (s : State) : Host.Outcome State Fault Refusal :=
  runInstr (.subn x y) s fun s => .ok (s.setRegThenFlag x (subNoBorrow (s.reg y) (s.reg x)))

/-- 8xyE, SHL (44_alu.md R190): V[x] is shifted; y is not read. -/
def execShl (x y : Nibble) (s : State) : Host.Outcome State Fault Refusal :=
  runInstr (.shl x y) s fun s => .ok (s.setRegThenFlag x (shiftLeft (s.reg x)))

/-- `rand8()`: the next draw and the state in which it has been taken (00_scope.md R13; log 4). -/
def State.draw (s : State) : Byte × State := (Config.rand8 s.draws, { s with draws := s.draws + 1 })

/-- Cxnn, RND (44_alu.md R191): a free draw masked with nn. -/
def execRnd (x : Nibble) (nn : Byte) (s : State) : Host.Outcome State Fault Refusal :=
  runInstr (.rnd x nn) s fun s => .ok (s.draw.2.setReg x (s.draw.1 &&& nn))

end Sys2Proof.Machine
end

