-- ==== Sys2Proof/Machine/Control.lean ====
section
/-! DEFINITION. The control transfers 00EE, 1nnn, 2nnn and Bnnn (42_control_flow.md). No target is checked when it is
written: the next fetch checks it (R144). -/

namespace Sys2Proof.Machine

/-- 00EE, RET (42_control_flow.md R140). -/
def execRet (s : State) : Host.Outcome State Fault Refusal :=
  runInstr .ret s fun s => s.popToPc

/-- 1nnn, JP (42_control_flow.md R141). -/
def execJp (nnn : Addr12) (s : State) : Host.Outcome State Fault Refusal :=
  runInstr (.jp nnn) s fun s => .ok (s.setPc (zext16 nnn))

/-- 2nnn, CALL (42_control_flow.md R142): the address pushed is the one after the call. -/
def execCall (nnn : Addr12) (s : State) : Host.Outcome State Fault Refusal :=
  runInstr (.call nnn) s fun s =>
    match s.push s.pc with
    | .ok t => .ok (t.setPc (zext16 nnn))
    | .error kind => .error kind

/-- Bnnn, JP_V0 (42_control_flow.md R143): always V0, and a 16-bit sum without masking. -/
def execJpV0 (nnn : Addr12) (s : State) : Host.Outcome State Fault Refusal :=
  runInstr (.jpV0 nnn) s fun s => .ok (s.setPc (zext16 nnn + (s.reg 0).setWidth 16))

end Sys2Proof.Machine
end

