-- ==== Sys2Proof/Machine/Display.lean ====
section
/-! DEFINITION. The display instructions 00E0 and Dxyn (41_display.md). -/

namespace Sys2Proof.Machine

/-- Where a sprite pixel at column `c`, row `r` (counted without wrap) lands: under `wrap` modulo the screen
(41_display.md R124), under `clip` nowhere past the right or bottom edge (R123). -/
def placePixel (m : EdgeMode) (c r : Nat) : Option (Fin 64 × Fin 32) :=
  match m with
  | .wrap => some (Fin.ofNat 64 c, Fin.ofNat 32 r)
  | .clip => if h : c < 64 ∧ r < 32 then some (⟨c, h.1⟩, ⟨r, h.2⟩) else none

/-- The cells the sprite byte `row` flips when its leftmost pixel stands at `(c0, r)`, left to right: bit 7 is the
leftmost pixel (41_display.md R122; the spec marks the bit order "from general knowledge": PRESUMED, unsafe, log 6). -/
def rowCells (m : EdgeMode) (c0 r : Nat) (row : Byte) : List (Fin 64 × Fin 32) :=
  [0, 1, 2, 3, 4, 5, 6, 7].filterMap fun b => if row.getLsbD (7 - b) then placePixel m (c0 + b) r else none

/-- The cells a sprite flips, row by row from the top (41_display.md R121). -/
def spriteCells (m : EdgeMode) (c0 : Nat) : Nat → List Byte → List (Fin 64 × Fin 32)
  | _, [] => []
  | r, row :: rows => rowCells m c0 r row ++ spriteCells m c0 (r + 1) rows

/-- Flip the cells in order; the second component says whether a lit pixel was met (41_display.md R121, R125). -/
def drawCells : Framebuffer → List (Fin 64 × Fin 32) → Framebuffer × Bool
  | fb, [] => (fb, false)
  | fb, (c, r) :: cells =>
    let rest := drawCells (fb.flip c r) cells
    (rest.1, fb.pixel c r || rest.2)

/-- Draw a sprite's rows with their top left pixel at `(c0, r0)` and write the collision flag last
(41_display.md R121). -/
def State.drawSprite (s : State) (c0 r0 : Nat) (rows : List Byte) : State :=
  let drawn := drawCells s.fb (spriteCells s.cfg.edgeMode c0 r0 rows)
  { s with fb := drawn.1 }.setFlag drawn.2

/-- 00E0, CLS (41_display.md R120). -/
def execCls (s : State) : Host.Outcome State Fault Refusal :=
  runInstr .cls s fun s => .ok { s with fb := Framebuffer.clear }

/-- Dxyn, DRW (41_display.md R121): the start position wraps, and is read before any write. -/
def execDrw (x y n : Nibble) (s : State) : Host.Outcome State Fault Refusal :=
  runInstr (.drw x y n) s fun s =>
    match s.memRead s.dataAddr n.toNat with
    | .ok rows => .ok (s.drawSprite ((s.reg x).toNat % 64) ((s.reg y).toNat % 32) rows)
    | .error kind => .error kind

end Sys2Proof.Machine
end

