-- ==== Sys2Proof/Machine/IndexMemory.lean ====
section
/-! DEFINITION. The index-register and memory instructions Annn, Fx1E, Fx29, Fx33, Fx55 and Fx65 (45_index_memory.md).
Each access checks its whole range first, and none changes `I` as a side effect (R226). -/

namespace Sys2Proof.Machine

/-- Annn, LD_I (45_index_memory.md R220). -/
def execLdI (nnn : Addr12) (s : State) : Host.Outcome State Fault Refusal :=
  runInstr (.ldI nnn) s fun s => .ok { s with I := zext16 nnn }

/-- Fx1E, ADD_I (45_index_memory.md R221): 16-bit wrap, no flag, no masking. -/
def execAddI (x : Nibble) (s : State) : Host.Outcome State Fault Refusal :=
  runInstr (.addI x) s fun s => .ok { s with I := s.I + (s.reg x).setWidth 16 }

/-- Fx29, LD_F (45_index_memory.md R222). -/
def execLdF (x : Nibble) (s : State) : Host.Outcome State Fault Refusal :=
  runInstr (.ldF x) s fun s =>
    match s.regIndex x with
    | .ok d => .ok { s with I := glyphAddr s.cfg d }
    | .error kind => .error kind

/-- Fx33, LD_B (45_index_memory.md R223). -/
def execLdB (x : Nibble) (s : State) : Host.Outcome State Fault Refusal :=
  runInstr (.ldB x) s fun s => s.memWrite s.dataAddr (decimalDigits (s.reg x))

/-- Fx55, LD_mem_Vx (45_index_memory.md R224). -/
def execLdMemVx (x : Nibble) (s : State) : Host.Outcome State Fault Refusal :=
  runInstr (.ldMemVx x) s fun s => s.memWrite s.dataAddr (s.regsUpTo x)

/-- Fx65, LD_Vx_mem (45_index_memory.md R225). -/
def execLdVxMem (x : Nibble) (s : State) : Host.Outcome State Fault Refusal :=
  runInstr (.ldVxMem x) s fun s =>
    match s.memRead s.dataAddr (x.toNat + 1) with
    | .ok bytes => .ok (s.setRegsFrom 0 bytes)
    | .error kind => .error kind

end Sys2Proof.Machine
end

