-- ==== Sys2Proof/Machine/Skips.lean ====
section
/-! DEFINITION. The conditional skips (43_skips.md). A skip passes over one word without reading it (R166). -/

namespace Sys2Proof.Machine

/-- 3xnn, SE_imm (43_skips.md R160). -/
def execSeImm (x : Nibble) (nn : Byte) (s : State) : Host.Outcome State Fault Refusal :=
  runInstr (.seImm x nn) s fun s => .ok (s.skipIf (s.reg x == nn))

/-- 4xnn, SNE_imm (43_skips.md R161). -/
def execSneImm (x : Nibble) (nn : Byte) (s : State) : Host.Outcome State Fault Refusal :=
  runInstr (.sneImm x nn) s fun s => .ok (s.skipIf (s.reg x != nn))

/-- 5xy0, SE_reg (43_skips.md R162). -/
def execSeReg (x y : Nibble) (s : State) : Host.Outcome State Fault Refusal :=
  runInstr (.seReg x y) s fun s => .ok (s.skipIf (s.reg x == s.reg y))

/-- 9xy0, SNE_reg (43_skips.md R163). -/
def execSneReg (x y : Nibble) (s : State) : Host.Outcome State Fault Refusal :=
  runInstr (.sneReg x y) s fun s => .ok (s.skipIf (s.reg x != s.reg y))

/-- Ex9E, SKP (43_skips.md R164). -/
def execSkp (x : Nibble) (s : State) : Host.Outcome State Fault Refusal :=
  runInstr (.skp x) s fun s =>
    match s.regIndex x with
    | .ok k => .ok (s.skipIf (s.key k))
    | .error kind => .error kind

/-- ExA1, SKNP (43_skips.md R165). -/
def execSknp (x : Nibble) (s : State) : Host.Outcome State Fault Refusal :=
  runInstr (.sknp x) s fun s =>
    match s.regIndex x with
    | .ok k => .ok (s.skipIf (!s.key k))
    | .error kind => .error kind

end Sys2Proof.Machine
end

