-- ==== Sys2Proof/Machine/TimersInput.lean ====
section
/-! DEFINITION. The timer and key-wait instructions Fx07, Fx0A, Fx15 and Fx18 (46_timers_input.md). None touches the
accumulator `acc` (R252, R253). -/

namespace Sys2Proof.Machine

/-- Fx07, LD_Vx_DT (46_timers_input.md R250). -/
def execLdVxDt (x : Nibble) (s : State) : Host.Outcome State Fault Refusal :=
  runInstr (.ldVxDt x) s fun s => .ok (s.setReg x s.DT)

/-- Fx0A, LD_Vx_K (46_timers_input.md R251): it does not look at the keys. The register is written at the resume
(R254, `State.resume`). -/
def execLdVxK (x : Nibble) (s : State) : Host.Outcome State Fault Refusal :=
  runInstr (.ldVxK x) s fun s => .ok { s with mode := .suspended x }

/-- Fx15, LD_DT (46_timers_input.md R252). -/
def execLdDt (x : Nibble) (s : State) : Host.Outcome State Fault Refusal :=
  runInstr (.ldDt x) s fun s => .ok { s with DT := s.reg x }

/-- Fx18, LD_ST (46_timers_input.md R253). -/
def execLdSt (x : Nibble) (s : State) : Host.Outcome State Fault Refusal :=
  runInstr (.ldSt x) s fun s => .ok { s with ST := s.reg x }

end Sys2Proof.Machine
end

