-- ==== Sys2Proof/Machine/Step.lean ====
section
/-! DEFINITION. One call of `step()` (40_cycle.md R100, R110). It always answers a next state: a fault's entry is one
(log 1). -/

namespace Sys2Proof.Machine

/-- `step()` of 40_cycle.md R110: the front of the step, then the instruction it decoded. -/
def step (s : State) : Host.Outcome State Fault Refusal :=
  match s.frontEnd with
  | .done t => .next t
  | .exec i => exec i s

/-- `s` with the instruction word `w`, of which the table gives `nbits`, placed so that the very next step fetches and
runs it. It stands for the `load` of a program (log 8). -/
def State.withFetchWord (s : State) (nbits w : Nat) : State := s.placeWord nbits w

end Sys2Proof.Machine
end

