-- ==== Sys2Proof/Machine/HostOps.lean ====
section
/-! DEFINITION. The host's operations (48_host_interface.md R270) beside `step`: the load and reset, the timer unit, the
input latch, and the read-only queries. -/

namespace Sys2Proof.Machine

/-! ### load -/

/-- What `load` answers (48_host_interface.md R277). -/
inductive LoadResult where
  | ok
  | imageTooLarge
  deriving DecidableEq, Repr

/-- `load(bytes)`: an image that ends past 0xFFF changes nothing (48_host_interface.md R272); any other resets every
piece of state and stands at 0x200 (R271; 70_reset_and_hazards.md R340). It ignores `PROTECT_RESERVED`. The configuration
stays, and so does the count of draws: draws after a load are new ones (00_scope.md R13; log 5). -/
def State.load (s : State) (bytes : List Byte) : State × LoadResult :=
  if bytes.length + loadBase > memSize then (s, .imageTooLarge)
  else ({ (State.powerOn s.cfg).storeBytes loadBase bytes with draws := s.draws }, .ok)

/-! ### advance_timers -/

/-- Whole 1/60 s ticks in a time of `t` seconds: `floor(t * 60)` (60_exceptions.md R312). -/
def ticksIn (t : Rat) : Nat := (t * timerHz).floor.toNat

/-- `k` ticks of an 8-bit timer: `max(0, v - k)` (60_exceptions.md R311, R312). -/
def decay (v : Byte) (k : Nat) : Byte := BitVec.ofNat 8 (v.toNat - k)

/-- `advance_timers(e)` for `e >= 0`, in any mode (60_exceptions.md R312, R313). -/
def State.advanceTimers (s : State) (e : Rat) : State :=
  let t := s.acc + e
  let k := ticksIn t
  { s with acc := t - (k : Rat) / timerHz, DT := decay s.DT k, ST := decay s.ST k }

/-! ### set_key_state -/

/-- `keys[k] <- pressed`. -/
def State.setKey (s : State) (k : Nibble) (pressed : Bool) : State :=
  { s with keys := s.keys.set k.toNat pressed k.isLt }

/-- `set_key_state(k, pressed)`: the latch write, and the resume of a suspended engine on a new key-down transition
(48_host_interface.md R273; 46_timers_input.md R254). -/
def State.setKeyState (s : State) (k : Nibble) (pressed : Bool) : State :=
  match s.mode with
  | .suspended t => if pressed && !s.key k then (s.setKey k pressed).resume t k else s.setKey k pressed
  | .running => s.setKey k pressed
  | .halted _ => s.setKey k pressed

/-- The 16 key indices in increasing order. -/
def keyOrder : List Nibble := [0, 1, 2, 3, 4, 5, 6, 7, 8, 9, 10, 11, 12, 13, 14, 15]

/-- A wholesale poll: 16 calls of `set_key_state` in increasing index (48_host_interface.md R273; 90_conflicts.md C7). -/
def State.pollKeys (s : State) (pressed : Vector Bool 16) : State :=
  keyOrder.foldl (fun t k => t.setKeyState k (pressed[k.toNat]'k.isLt)) s

/-! ### Queries -/

/-- `framebuffer_snapshot()` (48_host_interface.md R274). -/
def State.framebufferSnapshot (s : State) : Framebuffer := s.fb

/-- `sound_active()`: `ST > 0` (48_host_interface.md R275). -/
def State.soundActive (s : State) : Bool := decide (s.ST.toNat > 0)

/-- `status()`: the mode, with the record when halted (48_host_interface.md R279). -/
def State.status (s : State) : Mode := s.mode

/-! ### step's result -/

/-- What `step()` answers (40_cycle.md R111). -/
inductive StepResult where
  | ok
  | suspended
  | fault (r : FaultRecord)
  deriving DecidableEq, Repr

/-- The result of a step, read from the mode it leaves: `Ok` when running, `Suspended` when suspended, `Fault(rec)` when
halted (40_cycle.md R110, R111; DEDUCED, log 10). -/
def Mode.stepResult : Mode → StepResult
  | .running => .ok
  | .suspended _ => .suspended
  | .halted r => .fault r

/-! ### The operations as one type -/

/-- The host's operations (48_host_interface.md R270). -/
inductive HostOp where
  | load (bytes : List Byte)
  | step
  | advanceTimers (elapsed : Rat)
  | setKeyState (k : Nat) (pressed : Bool)
  | framebufferSnapshot
  | soundActive
  | status
  deriving DecidableEq, Repr

/-- What an operation answers to the host (48_host_interface.md R277). -/
inductive HostReply where
  | loaded (r : LoadResult)
  | stepped (r : StepResult)
  | done
  | snapshot (fb : Framebuffer)
  | sound (active : Bool)
  | mode (m : Mode)
  deriving DecidableEq, Repr

/-- One host operation, an atomic transition (48_host_interface.md R270, R278): the state it leaves and what it answers.
An index outside 0..15 and a negative time are no operations of the core and are refused (R273; log 9). -/
def perform (op : HostOp) (s : State) : Host.Outcome (State × HostReply) Fault Refusal :=
  match op with
  | .load bytes => .next ((s.load bytes).1, .loaded (s.load bytes).2)
  | .step =>
    match step s with
    | .next t => .next (t, .stepped t.mode.stepResult)
    | .fault f => .fault f
    | .refused r => .refused r
  | .advanceTimers e => if e < 0 then .refused .negativeElapsed else .next (s.advanceTimers e, .done)
  | .setKeyState k p =>
    if k < 16 then .next (s.setKeyState (BitVec.ofNat 4 k) p, .done) else .refused (.keyIndexOutOfRange k)
  | .framebufferSnapshot => .next (s, .snapshot s.framebufferSnapshot)
  | .soundActive => .next (s, .sound s.soundActive)
  | .status => .next (s, .mode s.status)

/-! ### Sequences of calls -/

/-- The state after one call of the host. A refused call is no operation of the core and leaves the state (log 16). -/
def State.afterCall (s : State) (op : HostOp) : State :=
  match perform op s with
  | .next (t, _) => t
  | .fault _ => s
  | .refused _ => s

/-- The state after a sequence of calls, in order (48_host_interface.md R278). -/
def State.afterCalls (s : State) (ops : List HostOp) : State := ops.foldl State.afterCall s

/-- Whether a call is a key-down transition: `set_key_state(k, true)` while `keys[k] = 0`
(46_timers_input.md R254). -/
def State.keyDown (s : State) : HostOp → Bool
  | .setKeyState k pressed => decide (k < 16) && pressed && !s.key (BitVec.ofNat 4 k)
  | .load _ => false
  | .step => false
  | .advanceTimers _ => false
  | .framebufferSnapshot => false
  | .soundActive => false
  | .status => false

/-- Whether some call of a sequence is a key-down transition in the state the calls before it leave. -/
def State.suppliesKeyDown (s : State) : List HostOp → Bool
  | [] => false
  | op :: rest => s.keyDown op || (s.afterCall op).suppliesKeyDown rest

end Sys2Proof.Machine
end

