-- ==== Sys2Proof/Safety.lean ====
section
/-! DEFINITION. The terms claims use: what a transition leaves unchanged, the state each instruction may write
(10_state.md R38; 20_memory.md R50), the faults a step raises (60_exceptions.md R300, R305), the screen cells a sprite
covers, the invariant of the core, the states the host's operations can reach, and the end of a run
(70_reset_and_hazards.md R349). -/

namespace Sys2Proof.Machine

/-! ### Frames -/

/-- The pieces of state: those of 10_state.md R20 (`stack` the entries, `sp` the depth), then the model's own two. -/
inductive Part where
  | mem | V | I | pc | stack | sp | DT | ST | acc | fb | keys | mode | cfg | draws
  deriving DecidableEq, Repr

/-- A piece of state is the same before and after. Memory is compared through the read of one byte, at every address. -/
def Part.Same (s t : State) : Part → Prop
  | .mem => ∀ a, t.readByte a = s.readByte a
  | .V => t.V = s.V
  | .I => t.I = s.I
  | .pc => t.pc = s.pc
  | .stack => t.stack = s.stack
  | .sp => t.sp = s.sp
  | .DT => t.DT = s.DT
  | .ST => t.ST = s.ST
  | .acc => t.acc = s.acc
  | .fb => t.fb = s.fb
  | .keys => t.keys = s.keys
  | .mode => t.mode = s.mode
  | .cfg => t.cfg = s.cfg
  | .draws => t.draws = s.draws

/-- Everything but the named pieces is the same before and after. -/
def OnlyChanges (parts : List Part) (s t : State) : Prop := ∀ p, p ∉ parts → p.Same s t

/-! ### Fields at their places in the word (30_encoding.md R71) -/

/-- `x << 8`. -/
def atX (x : Nibble) : Word := x.setWidth 16 <<< 8
/-- `y << 4`. -/
def atY (y : Nibble) : Word := y.setWidth 16 <<< 4
/-- `n`, `nn` or `nnn` at bit 0. -/
def atLow {k : Nat} (v : BitVec k) : Word := v.setWidth 16

/-! ### Shapes of completion -/

/-- `i` completes from `s`, leaves the pc at `a`, and changes nothing else. -/
def GoesTo (i : Instr) (s : State) (a : Word) : Prop :=
  ∃ t, exec i s = .next t ∧ t.pc = a ∧ OnlyChanges [.pc] s t

/-- `i` completes from `s` with `V[x]` holding `v`: every other register is the same, the pc is advanced, and nothing
else changes. -/
def WritesReg (i : Instr) (s : State) (x : Nibble) (v : Byte) : Prop :=
  ∃ t, exec i s = .next t ∧ t.reg x = v ∧ (∀ k, k ≠ x → t.reg k = s.reg k) ∧ t.pc = s.pc + 2 ∧
    OnlyChanges [.V, .pc] s t

/-- `i` completes from `s` with `VF` holding the flag (1 or 0) and, unless `x` is 15, `V[x]` holding `v`
(40_cycle.md R108): every other register is the same, the pc is advanced, and nothing else changes. -/
def WritesRegAndFlag (i : Instr) (s : State) (x : Nibble) (v : Byte) (flag : Prop) [Decidable flag] : Prop :=
  ∃ t, exec i s = .next t ∧ t.reg 15 = (if flag then 1 else 0) ∧ (x ≠ 15 → t.reg x = v) ∧
    (∀ k, k ≠ x → k ≠ 15 → t.reg k = s.reg k) ∧ t.pc = s.pc + 2 ∧ OnlyChanges [.V, .pc] s t

/-- `i` faults from `s`: the step commits nothing, and its only effect is the halt with the kind, the address of the
instruction and its word (60_exceptions.md R302; 10_state.md R31). -/
def Faults (i : Instr) (s : State) (kind : FaultKind) : Prop :=
  exec i s = .next { s with mode := .halted { kind := kind, addr := s.pc, word := some (encode i) } }

/-! ### What each instruction may write -/

/-- The pieces of state an instruction writes when it completes: those of 10_state.md R38, column W; memory for Fx33 and Fx55,
from 20_memory.md R50; the pc for every instruction (40_cycle.md R105); and for `Cxnn` the count of draws, which is the
model's own (log 4). -/
def instrWrites : Instr → List Part
  | .cls => [.pc, .fb]
  | .ret => [.pc, .sp]
  | .jp _ | .jpV0 _ => [.pc]
  | .call _ => [.pc, .sp, .stack]
  | .seImm _ _ | .sneImm _ _ | .seReg _ _ | .sneReg _ _ | .skp _ | .sknp _ => [.pc]
  | .ldImm _ _ | .addImm _ _ | .ldReg _ _ | .or _ _ | .and _ _ | .xor _ _ | .addReg _ _ | .sub _ _ | .shr _ _
  | .subn _ _ | .shl _ _ | .ldVxDt _ | .ldVxMem _ => [.pc, .V]
  | .rnd _ _ => [.pc, .V, .draws]
  | .drw _ _ _ => [.pc, .V, .fb]
  | .ldI _ | .addI _ | .ldF _ => [.pc, .I]
  | .ldB _ | .ldMemVx _ => [.pc, .mem]
  | .ldVxK _ => [.pc, .mode]
  | .ldDt _ => [.pc, .DT]
  | .ldSt _ => [.pc, .ST]

/-! ### The faults of a step -/

/-- The execute-phase fault of an instruction from the state its step begins in (60_exceptions.md R300, codes 3, 4, 6, 7
and 8; the bounds check first, 20_memory.md R56). -/
def instrFault (s : State) : Instr → Option FaultKind
  | .ret => if s.sp.val = 0 then some .stackUnderflow else none
  | .call _ => if s.sp.val = 16 then some .stackOverflow else none
  | .drw _ _ n => if 1 ≤ n.toNat ∧ s.I.toNat + n.toNat - 1 > 0xFFF then some .outOfBoundsAccess else none
  | .ldB _ =>
    if s.I.toNat + 2 > 0xFFF then some .outOfBoundsAccess
    else if s.cfg.protectReserved ∧ s.I.toNat ≤ 0x1FF then some .reservedWrite else none
  | .ldMemVx x =>
    if s.I.toNat + x.toNat > 0xFFF then some .outOfBoundsAccess
    else if s.cfg.protectReserved ∧ s.I.toNat ≤ 0x1FF then some .reservedWrite else none
  | .ldVxMem x => if s.I.toNat + x.toNat > 0xFFF then some .outOfBoundsAccess else none
  | .skp x | .sknp x | .ldF x => if (s.reg x).toNat > 15 then some .operandOutOfRange else none
  | _ => none

/-- The fault record of a running step, if it faults: the first that applies in the order of 60_exceptions.md R305. -/
def State.faultRecord (s : State) : Option FaultRecord :=
  if s.pc.toNat > 0xFFE then some ⟨.outOfBoundsFetch, s.pc, none⟩
  else if s.cfg.pcAlignCheck ∧ s.pc.toNat % 2 = 1 then some ⟨.misalignedFetch, s.pc, none⟩
  else
    match decode (s.wordAt s.pc.toNat) with
    | .error _ => some ⟨.unrecognizedInstruction, s.pc, some (s.wordAt s.pc.toNat)⟩
    | .ok i => (instrFault s i).map fun kind => ⟨kind, s.pc, some (s.wordAt s.pc.toNat)⟩

/-- The engine is running and its pc can be fetched from (40_cycle.md R103, R104). -/
def State.CanFetch (s : State) : Prop :=
  s.mode = .running ∧ s.pc.toNat ≤ 0xFFE ∧ (s.cfg.pcAlignCheck = true → s.pc.toNat % 2 = 0)

/-! ### Sprites -/

/-- The sprite's bit at column `dc`, row `dr` from its top left corner, for a sprite of `n` rows at `I`; false outside the
sprite (41_display.md R122). -/
def State.spriteBit (s : State) (n dc dr : Nat) : Bool :=
  decide (dc < 8 ∧ dr < n) && (s.readByte (s.I.toNat + dr)).getLsbD (7 - dc)

/-- Whether the sprite of `Dxyn` has a bit of 1 at screen cell `(c, r)`: under `clip` counted from the start position
without wrap, under `wrap` modulo the screen (41_display.md R121 to R124). -/
def State.spriteCovers (s : State) (x y n : Nibble) (c : Fin 64) (r : Fin 32) : Bool :=
  let c0 := (s.reg x).toNat % 64
  let r0 := (s.reg y).toNat % 32
  match s.cfg.edgeMode with
  | .clip => decide (c0 ≤ c.val ∧ r0 ≤ r.val) && s.spriteBit n.toNat (c.val - c0) (r.val - r0)
  | .wrap => s.spriteBit n.toNat ((c.val + 64 - c0) % 64) ((r.val + 32 - r0) % 32)

/-! ### The invariant -/

/-- What holds of the core between operations. -/
structure State.Inv (s : State) : Prop where
  /-- The glyphs stand in the reserved area (00_scope.md R7). -/
  cfgWf : s.cfg.WellFormed
  /-- Memory is in its canonical form, inside 0x000..0xFFF (20_memory.md R51). -/
  memWf : Memory.wf (resetByte s.cfg) s.mem
  /-- `0 <= acc < 1/60` (10_state.md R27). -/
  accRange : 0 ≤ s.acc ∧ s.acc < 1 / 60
  /-- The pc never passes `0xFFF + 0xFF` and so never wraps (10_state.md R24). -/
  pcBound : s.pc.toNat ≤ 0x10FE
  /-- Every return address is at most 0x1000 (42_control_flow.md R140, R142). -/
  stackBound : ∀ k : Fin 16, s.stack[k.val].toNat ≤ 0x1000
  /-- Under `PROTECT_RESERVED` the reserved area, the glyphs with it, holds its reset contents (20_memory.md R53). -/
  reservedIntact : s.cfg.protectReserved = true → ∀ a, a ≤ 0x1FF → s.readByte a = resetByte s.cfg a
  /-- A halted engine's pc is the faulting instruction's address, and its record has a word unless the fetch faulted
  (10_state.md R31; 60_exceptions.md R302). -/
  haltedRecord : ∀ r, s.mode = .halted r →
    r.addr = s.pc ∧ (r.word = none ↔ r.kind = .outOfBoundsFetch ∨ r.kind = .misalignedFetch)

/-- Two states that differ at most in the stack entries at index `sp` or above (10_state.md R25). -/
def SameLiveState (s t : State) : Prop :=
  t = { s with stack := t.stack } ∧ ∀ k : Fin 16, k.val < s.sp.val → t.stack[k.val] = s.stack[k.val]

/-! ### Runs -/

/-- The states the host's operations can bring the core to from power-on (48_host_interface.md R270). -/
inductive Reachable (c : Config) : State → Prop where
  | powerOn : Reachable c (State.powerOn c)
  | op {s t : State} {o : HostOp} {r : HostReply} : Reachable c s → perform o s = .next (t, r) → Reachable c t

/-- The run has ended at the launch-chosen address `e`: the engine is running, `pc = e`, and the word at `e` is a jump to
`e` (70_reset_and_hazards.md R349). -/
def State.AtEnd (s : State) (e : Addr12) : Prop :=
  s.mode = .running ∧ s.pc = zext16 e ∧ decode (s.wordAt e.toNat) = .ok (.jp e)

/-- The run has ended, but not well (70_reset_and_hazards.md R349): a fault has halted the engine, or the engine is
suspended and none of the calls the host still makes, `rest`, supplies a key-down transition (log 16). -/
def State.EndedBadly (s : State) (rest : List HostOp) : Prop :=
  (∃ r, s.mode = .halted r) ∨ ((∃ t, s.mode = .suspended t) ∧ s.suppliesKeyDown rest = false)

end Sys2Proof.Machine
end

