-- ==== Sys2Proof/Certificates/Slice0/Obligations.lean ====
section
/-! DEFINITION. The statements for the provers. Each formalises rules of spec/, named in its docstring; OBLIGATIONS.json
lists them. -/

open Sys2Proof Sys2Proof.Machine

/-! ### Encoding -/

/-- 30_encoding.md R70, R71, R75: decoding the word of an instruction gives that instruction, for every instruction and
every value of its operands. -/
def Obligations.DecodeInvertsEncode : Prop := ∀ i : Instr, decode (encode i) = .ok i

/-- 30_encoding.md R71, R72, R75: a recognized word has one meaning; its instruction encodes to that word, the field an
instruction does not read included. -/
def Obligations.EncodeInvertsDecode : Prop := ∀ (w : Word) (i : Instr), decode w = .ok i → encode i = w

/-- 30_encoding.md R73, R75: a decoded word matches exactly one row of the opcode map, the one with the instruction's
name; a word that does not decode is rejected as unrecognized and matches no row. -/
def Obligations.DecodeFollowsOpcodeMap : Prop :=
  ∀ w : Word,
    (∀ i, decode w = .ok i → (opcodeTable.filter (·.recognizes w)).map OpRow.name = [mnemonic i]) ∧
    (∀ e, decode w = .error e → e = .unrecognized w ∧ opcodeTable.filter (·.recognizes w) = [])

/-- 30_encoding.md R73: the unrecognized words are exactly the six listed classes. -/
def Obligations.UnrecognizedWordClasses : Prop :=
  ∀ w : Word, (∃ e, decode w = .error e) ↔
    (w.toNat / 0x1000 = 0x0 ∧ w.toNat ≠ 0x00E0 ∧ w.toNat ≠ 0x00EE) ∨
    (w.toNat / 0x1000 = 0x5 ∧ w.toNat % 16 ≠ 0) ∨
    (w.toNat / 0x1000 = 0x8 ∧ w.toNat % 16 ∈ [0x8, 0x9, 0xA, 0xB, 0xC, 0xD, 0xF]) ∨
    (w.toNat / 0x1000 = 0x9 ∧ w.toNat % 16 ≠ 0) ∨
    (w.toNat / 0x1000 = 0xE ∧ w.toNat % 256 ∉ [0x9E, 0xA1]) ∨
    (w.toNat / 0x1000 = 0xF ∧
      w.toNat % 256 ∉ [0x07, 0x0A, 0x15, 0x18, 0x1E, 0x29, 0x33, 0x55, 0x65])

/-- 30_encoding.md R75: words written out bit by bit from the map, one of each family of instructions. -/
def Obligations.SampleWordsDecode : Prop :=
  decode 0b0000000011100000 = .ok .cls ∧
  decode 0b0010001100000100 = .ok (.call 0x304) ∧
  decode 0b0011010100101010 = .ok (.seImm 5 0x2A) ∧
  decode 0b1000001101000101 = .ok (.sub 3 4) ∧
  decode 0b1101101011000101 = .ok (.drw 0xA 0xC 5) ∧
  decode 0b1110011110100001 = .ok (.sknp 7) ∧
  decode 0b1111000100001010 = .ok (.ldVxK 1) ∧
  decode 0b1111111101100101 = .ok (.ldVxMem 0xF)

/-! ### The step -/

/-- 40_cycle.md R100, R105, R110: when the engine can fetch and the two bytes at the pc, high byte first, decode to `i`,
the step is `exec i` at that state. `exec` holds the default advance itself. -/
def Obligations.StepRunsDecodedInstruction : Prop :=
  ∀ (s : State) (i : Instr), s.CanFetch →
    decode (wordOfBytes (s.readByte s.pc.toNat) (s.readByte (s.pc.toNat + 1))) = .ok i →
    step s = exec i s

/-- 60_exceptions.md R302, R305 (with the conditions of R300): a running step faults exactly when the fault table gives a
record, the first in order of priority; it then only halts the engine with that record, which it answers to the host.
Otherwise it does not halt. -/
def Obligations.RunningStepFaultsByTable : Prop :=
  ∀ s : State, s.mode = .running →
    match s.faultRecord with
    | some r => perform .step s = .next ({ s with mode := .halted r }, .stepped (.fault r))
    | none => ∃ t, perform .step s = .next (t, .stepped t.mode.stepResult) ∧ ∀ r, t.mode ≠ .halted r

/-- 40_cycle.md R101: a step of a suspended or halted engine changes nothing and answers `Suspended` or the same fault. -/
def Obligations.IdleStepChangesNothing : Prop :=
  ∀ s : State,
    (∀ x, s.mode = .suspended x → perform .step s = .next (s, .stepped .suspended)) ∧
    (∀ r, s.mode = .halted r → perform .step s = .next (s, .stepped (.fault r)))

/-- 40_cycle.md R111: a step always answers one of three results: `Ok` only from and to a running engine, `Suspended`
exactly when the engine is then suspended, `Fault(rec)` exactly when it is then halted with `rec`. `Ok` means one
instruction, the one at the pc, was executed. -/
def Obligations.StepAnswersOneOfThreeResults : Prop :=
  ∀ s : State, ∃ t r, step s = .next t ∧ perform .step s = .next (t, .stepped r) ∧
    (r = .ok ↔ t.mode = .running) ∧ (t.mode = .running → s.mode = .running) ∧
    (r = .ok → ∃ i, s.CanFetch ∧ decode (s.wordAt s.pc.toNat) = .ok i ∧ exec i s = .next t) ∧
    (r = .suspended ↔ ∃ x, t.mode = .suspended x) ∧
    (∀ rec, r = .fault rec ↔ t.mode = .halted rec)

/-- An instruction that does not fault changes only the pieces of state listed for it, and one that faults changes only the
mode (60_exceptions.md R302). The pieces are those of 10_state.md R38, column W, with the general registers taken as one
piece; the pc of every instruction (40_cycle.md R105); memory for Fx33 and Fx55 alone, from 20_memory.md R50, as R38 has no
row for it; never the accumulator (10_state.md R27). That Cxnn takes a draw, and that the configuration is a field, are the
model's choice (log 4, log 2). Which register and which bytes change is in the instructions' own statements. -/
def Obligations.InstructionsWriteOnlyTheirRow : Prop :=
  ∀ (i : Instr) (s t : State), exec i s = .next t →
    OnlyChanges (instrWrites i) s t ∨ ∃ kind, Faults i s kind

/-- 10_state.md R27, R29 and 60_exceptions.md R313: no step changes the accumulator, the key latch or the configuration,
and none decrements a timer: DT and ST change only by Fx15 and Fx18, to the register's value. -/
def Obligations.NoStepMovesTimersOrKeys : Prop :=
  ∀ s t : State, step s = .next t →
    t.acc = s.acc ∧ t.keys = s.keys ∧ t.cfg = s.cfg ∧
    (t.DT = s.DT ∨ ∃ x, decode (s.wordAt s.pc.toNat) = .ok (.ldDt x) ∧ t.DT = s.reg x) ∧
    (t.ST = s.ST ∨ ∃ x, decode (s.wordAt s.pc.toNat) = .ok (.ldSt x) ∧ t.ST = s.reg x)

/-- 10_state.md R24, R25, R28, R34 and 45_index_memory.md R226: a step changes the framebuffer only for 00E0 and Dxyn, the
call stack only for 2nnn and 00EE, `I` only for Annn, Fx1E and Fx29, a byte of memory only for Fx33 and Fx55, and the mode
only for Fx0A or by a fault. -/
def Obligations.StepWritesByNamedInstructionsOnly : Prop :=
  ∀ s t : State, step s = .next t →
    let here := decode (s.wordAt s.pc.toNat)
    (t.fb ≠ s.fb → here = .ok .cls ∨ ∃ x y n, here = .ok (.drw x y n)) ∧
    ((t.sp ≠ s.sp ∨ t.stack ≠ s.stack) → here = .ok .ret ∨ ∃ nnn, here = .ok (.call nnn)) ∧
    (t.I ≠ s.I → (∃ nnn, here = .ok (.ldI nnn)) ∨ ∃ x, here = .ok (.addI x) ∨ here = .ok (.ldF x)) ∧
    ((∃ a, t.readByte a ≠ s.readByte a) → ∃ x, here = .ok (.ldB x) ∨ here = .ok (.ldMemVx x)) ∧
    (t.mode ≠ s.mode → (∃ x, here = .ok (.ldVxK x)) ∨ ∃ r, t.mode = .halted r)

/-- 10_state.md R25: the stack entries at index `sp` or above cannot be observed: from two states that differ only there,
every operation of the host answers the same and leaves two states that differ only there. -/
def Obligations.DeadStackEntriesUnobservable : Prop :=
  ∀ (op : HostOp) (s s' t : State) (reply : HostReply), SameLiveState s s' →
    perform op s = .next (t, reply) → ∃ t', perform op s' = .next (t', reply) ∧ SameLiveState t t'

/-- 42_control_flow.md R141 and 70_reset_and_hazards.md R349: at the end of a run, a fetchable jump to itself, the step
completes and changes nothing. -/
def Obligations.JumpToSelfLoopsUnchanged : Prop :=
  ∀ (s : State) (e : Addr12), s.AtEnd e → s.CanFetch → step s = .next s

/-- 70_reset_and_hazards.md R349 and R347: through calls none of which is a load that fits, an engine whose run has ended
badly keeps its mode, halted or waiting; an engine that waits is not so when the calls supply a key-down transition: some
of them, from the first on, bring it back to running. That the calls are a finite list is the model's choice (log 16). -/
def Obligations.BadEndLastsWithoutLoad : Prop :=
  ∀ (s : State) (rest : List HostOp), (∀ bytes, .load bytes ∈ rest → bytes.length > 0xE00) →
    (s.EndedBadly rest → (s.afterCalls rest).mode = s.mode) ∧
    (∀ x, s.mode = .suspended x → s.suppliesKeyDown rest = true →
      ∃ before, before <+: rest ∧ (s.afterCalls before).mode = .running)

/-! ### The invariant -/

/-- 10_state.md R24, R27, R31 and 20_memory.md R51, R53: every step keeps the invariant, from every state that meets it. -/
def Obligations.StepKeepsInvariant : Prop := ∀ s t : State, s.Inv → step s = .next t → t.Inv

/-- The same for every operation of the host (48_host_interface.md R270). -/
def Obligations.HostOperationsKeepInvariant : Prop :=
  ∀ (op : HostOp) (s t : State) (reply : HostReply), s.Inv → perform op s = .next (t, reply) → t.Inv

/-- 10_state.md R37: the invariant holds at power-on under every well-formed configuration, and at reset. -/
def Obligations.PowerOnMeetsInvariant : Prop :=
  (∀ c : Config, c.WellFormed → (State.powerOn c).Inv) ∧ State.reset.Inv

/-- 00_scope.md R7 and 48_host_interface.md R270: every state the host's operations reach from power-on meets the
invariant and has the configuration it began with. -/
def Obligations.ReachableStatesMeetInvariant : Prop :=
  ∀ (c : Config) (s : State), c.WellFormed → Reachable c s → s.Inv ∧ s.cfg = c

/-! ### Host operations -/

/-- 70_reset_and_hazards.md R340: a load of an image that fits leaves every piece of state at its reset value, the image at
0x200 and the glyphs at `FONT_BASE`, from every state and in every mode. -/
def Obligations.LoadResetsAndPlacesImage : Prop :=
  ∀ (s : State) (bytes : List Byte), bytes.length ≤ 0xE00 →
    ∃ t, perform (.load bytes) s = .next (t, .loaded .ok) ∧
      (∀ a, a ≤ 0xFFF → t.readByte a =
        if 0x200 ≤ a ∧ a < 0x200 + bytes.length then bytes.getD (a - 0x200) 0
        else if s.cfg.fontBase.toNat ≤ a ∧ a < s.cfg.fontBase.toNat + 80 then
          s.cfg.fontData.toList.getD (a - s.cfg.fontBase.toNat) 0
        else 0) ∧
      (∀ k, t.reg k = 0) ∧ t.I = 0 ∧ t.pc = 0x200 ∧ t.sp = 0 ∧ (∀ k : Fin 16, t.stack[k.val] = 0) ∧
      t.DT = 0 ∧ t.ST = 0 ∧ t.acc = 0 ∧ (∀ c r, t.fb.pixel c r = false) ∧ (∀ k, t.key k = false) ∧
      t.mode = .running ∧ t.cfg = s.cfg

/-- 48_host_interface.md R272: an image of more than 3584 bytes leaves the whole state unchanged. -/
def Obligations.OversizedLoadChangesNothing : Prop :=
  ∀ (s : State) (bytes : List Byte), bytes.length + 0x200 > 0x1000 →
    perform (.load bytes) s = .next (s, .loaded .imageTooLarge)

/-- 70_reset_and_hazards.md R341: the power-on state is the one a load of the empty image leaves, and a step before any
load raises UnrecognizedInstruction for the word 0x0000 at 0x200. -/
def Obligations.PowerOnIsEmptyLoad : Prop :=
  ∀ c : Config, c.WellFormed →
    perform (.load []) (State.powerOn c) = .next (State.powerOn c, .loaded .ok) ∧
    step (State.powerOn c) =
      .next { State.powerOn c with mode := .halted ⟨.unrecognizedInstruction, 0x200, some 0x0000⟩ }

/-- 60_exceptions.md R312: advancing by `e` takes the whole 1/60 s ticks `k` of `acc + e` off both timers, floored at 0,
keeps the rest in the accumulator, and changes nothing else; by 0 it changes nothing. -/
def Obligations.AdvanceTimersConsumesTicks : Prop :=
  ∀ (s : State) (e : Rat), 0 ≤ s.acc → s.acc < 1 / 60 → 0 ≤ e →
    ∃ (t : State) (k : Nat), perform (.advanceTimers e) s = .next (t, .done) ∧
      (k : Rat) / 60 ≤ s.acc + e ∧ s.acc + e < ((k : Rat) + 1) / 60 ∧
      t.acc = s.acc + e - (k : Rat) / 60 ∧ 0 ≤ t.acc ∧ t.acc < 1 / 60 ∧
      t.DT.toNat = s.DT.toNat - k ∧ t.ST.toNat = s.ST.toNat - k ∧
      OnlyChanges [.acc, .DT, .ST] s t ∧ (e = 0 → t = s)

/-- 60_exceptions.md R312: the decay does not depend on how the elapsed time is cut into calls. -/
def Obligations.TimerDecayIndependentOfCalls : Prop :=
  ∀ (s : State) (e₁ e₂ : Rat), 0 ≤ s.acc → 0 ≤ e₁ → 0 ≤ e₂ →
    (s.advanceTimers e₁).advanceTimers e₂ = s.advanceTimers (e₁ + e₂)

/-- 46_timers_input.md R254 (and 48_host_interface.md R273): the key state is written; a new key-down transition of a
suspended engine also writes the key's index to the waiting register and resumes, and nothing else does, the timers'
advance included. An index outside 0..15 is refused. -/
def Obligations.KeyStateWriteAndResume : Prop :=
  ∀ (s : State) (k : Nat) (p : Bool),
    (∀ j : Nibble, j.toNat = k → ∃ t, perform (.setKeyState k p) s = .next (t, .done) ∧
      (∀ i, t.key i = if i = j then p else s.key i) ∧
      ((∃ x, s.mode = .suspended x ∧ p = true ∧ s.key j = false ∧ t.mode = .running ∧ (t.reg x).toNat = k ∧
          (∀ i, i ≠ x → t.reg i = s.reg i) ∧ OnlyChanges [.keys, .V, .mode] s t) ∨
        ((∀ x, s.mode = .suspended x → ¬(p = true ∧ s.key j = false)) ∧ OnlyChanges [.keys] s t))) ∧
    (∀ e t reply, perform (.advanceTimers e) s = .next (t, reply) → t.mode = s.mode) ∧
    (k > 15 → perform (.setKeyState k p) s = .refused (.keyIndexOutOfRange k))

/-- 48_host_interface.md R273: a wholesale poll of a suspended engine in which some key newly goes down resumes it with the
lowest such key, and leaves the latch as polled. -/
def Obligations.PollResumesWithLowestKey : Prop :=
  ∀ (s : State) (x k : Nibble) (pressed : Vector Bool 16), s.mode = .suspended x →
    pressed[k.toNat]'k.isLt = true → s.key k = false →
    (∀ j : Nibble, j.toNat < k.toNat → ¬(pressed[j.toNat]'j.isLt = true ∧ s.key j = false)) →
    (s.pollKeys pressed).mode = .running ∧ ((s.pollKeys pressed).reg x).toNat = k.toNat ∧
      (∀ j, j ≠ x → (s.pollKeys pressed).reg j = s.reg j) ∧ (s.pollKeys pressed).keys = pressed ∧
      OnlyChanges [.keys, .V, .mode] s (s.pollKeys pressed)

/-- 60_exceptions.md R303, R304: a halted engine stays halted with the same record under every operation but a load that
fits; a step changes nothing and answers the same fault; the timers decay, the keys are written and the queries answer as
ever. -/
def Obligations.HaltedLeftOnlyByLoad : Prop :=
  ∀ (s : State) (rec : FaultRecord), s.mode = .halted rec →
    (∀ (op : HostOp) (t : State) (reply : HostReply), perform op s = .next (t, reply) →
      t.mode = .halted rec ∨ ∃ bytes, op = .load bytes ∧ bytes.length ≤ 0xE00 ∧ t.mode = .running) ∧
    perform .step s = .next (s, .stepped (.fault rec)) ∧
    (∀ e : Rat, 0 ≤ e → perform (.advanceTimers e) s = .next (s.advanceTimers e, .done)) ∧
    (∀ (k : Nibble) (p : Bool), ∃ t, perform (.setKeyState k.toNat p) s = .next (t, .done) ∧
      (∀ j, t.key j = if j = k then p else s.key j) ∧ OnlyChanges [.keys] s t) ∧
    perform .framebufferSnapshot s = .next (s, .snapshot s.fb) ∧
    perform .soundActive s = .next (s, .sound s.soundActive) ∧
    perform .status s = .next (s, .mode (.halted rec))

/-- 46_timers_input.md R254 and 60_exceptions.md R318: a suspended engine stays suspended under every operation but a new
key-down transition, which writes the key's index to the waiting register, and a load that fits. -/
def Obligations.SuspendedLeftOnlyByKeyOrLoad : Prop :=
  ∀ (op : HostOp) (s t : State) (x : Nibble) (reply : HostReply), s.mode = .suspended x →
    perform op s = .next (t, reply) →
    t.mode = .suspended x ∨
    (∃ k : Nibble, op = .setKeyState k.toNat true ∧ s.key k = false ∧ t.mode = .running ∧
      (t.reg x).toNat = k.toNat) ∨
    (∃ bytes, op = .load bytes ∧ bytes.length ≤ 0xE00 ∧ t.mode = .running)

/-- 48_host_interface.md R274, R275, R279: the queries answer the framebuffer, whether `ST > 0`, and the mode, and change
nothing. -/
def Obligations.QueriesOnlyRead : Prop :=
  ∀ s : State,
    (∃ fb, perform .framebufferSnapshot s = .next (s, .snapshot fb) ∧ ∀ c r, fb.pixel c r = s.fb.pixel c r) ∧
    perform .soundActive s = .next (s, .sound (decide (s.ST ≠ 0))) ∧
    perform .status s = .next (s, .mode s.mode)

/-! ### Display -/

/-- 41_display.md R120: 00E0 unlights every pixel and changes nothing else. -/
def Obligations.ClsUnlightsEveryPixel : Prop :=
  decode 0x00E0 = .ok .cls ∧
  ∀ s : State, ∃ t, exec .cls s = .next t ∧ (∀ c r, t.fb.pixel c r = false) ∧ t.pc = s.pc + 2 ∧
    OnlyChanges [.fb, .pc] s t

/-- 41_display.md R121 and R123 to R126: Dxyn flips exactly the screen cells its sprite covers, under either edge policy; VF ends as
1 exactly when a covered cell was lit; a sprite of no rows reads no memory; a read past 0xFFF faults. Which column a bit of
a sprite byte stands in (bit 7 leftmost, R122) is the spec's own supply "from general knowledge, not in source" (log 6). -/
def Obligations.DrawFlipsCoveredCells : Prop :=
  ∀ (s : State) (x y n : Nibble),
    decode (0xD000 ||| atX x ||| atY y ||| atLow n) = .ok (.drw x y n) ∧
    ((n.toNat = 0 ∨ s.I.toNat + n.toNat - 1 ≤ 0xFFF) →
      ∃ t, exec (.drw x y n) s = .next t ∧
        (∀ c r, t.fb.pixel c r = (s.fb.pixel c r ^^ s.spriteCovers x y n c r)) ∧
        t.reg 15 = (if ∃ c r, s.spriteCovers x y n c r = true ∧ s.fb.pixel c r = true then 1 else 0) ∧
        (∀ k, k ≠ 15 → t.reg k = s.reg k) ∧ t.pc = s.pc + 2 ∧ OnlyChanges [.fb, .V, .pc] s t) ∧
    (1 ≤ n.toNat → s.I.toNat + n.toNat - 1 > 0xFFF → Faults (.drw x y n) s .outOfBoundsAccess)

/-- 41_display.md R127: drawing the same sprite at the same place again restores the framebuffer; the second VF is 1
exactly when the sprite covers a cell that was unlit before the first draw. The place is the same when neither coordinate
register is VF. Which cells the sprite covers, and so the second VF, rests on bit 7 of a sprite byte being leftmost (R122),
the spec's own supply "from general knowledge, not in source" (log 6). -/
def Obligations.SecondDrawRestoresFramebuffer : Prop :=
  ∀ (s : State) (x y n : Nibble), x ≠ 15 → y ≠ 15 → (n.toNat = 0 ∨ s.I.toNat + n.toNat - 1 ≤ 0xFFF) →
    ∃ t u, exec (.drw x y n) s = .next t ∧ exec (.drw x y n) t = .next u ∧ u.fb = s.fb ∧
      u.reg 15 = (if ∃ c r, s.spriteCovers x y n c r = true ∧ s.fb.pixel c r = false then 1 else 0) ∧
      OnlyChanges [.V, .pc] s u

/-! ### Control flow -/

/-- 42_control_flow.md R140. -/
def Obligations.RetPopsIntoPc : Prop :=
  decode 0x00EE = .ok .ret ∧
  ∀ s : State,
    (∀ h : 0 < s.sp.val, ∃ t, exec .ret s = .next t ∧ t.sp.val = s.sp.val - 1 ∧
      t.pc = s.stack[s.sp.val - 1]'(by omega) ∧ OnlyChanges [.sp, .pc] s t) ∧
    (s.sp.val = 0 → Faults .ret s .stackUnderflow)

/-- 42_control_flow.md R141, R143: the target is `nnn`, or the 16-bit sum of `nnn` and V0 without masking. -/
def Obligations.JumpsSetPc : Prop :=
  ∀ (s : State) (nnn : Addr12),
    decode (0x1000 ||| atLow nnn) = .ok (.jp nnn) ∧
    decode (0xB000 ||| atLow nnn) = .ok (.jpV0 nnn) ∧
    GoesTo (.jp nnn) s (BitVec.ofNat 16 nnn.toNat) ∧
    GoesTo (.jpV0 nnn) s (BitVec.ofNat 16 (nnn.toNat + (s.reg 0).toNat))

/-- 42_control_flow.md R142: the address after the call is pushed. -/
def Obligations.CallPushesReturnAddress : Prop :=
  ∀ (s : State) (nnn : Addr12),
    decode (0x2000 ||| atLow nnn) = .ok (.call nnn) ∧
    (s.sp.val < 16 → ∃ t, exec (.call nnn) s = .next t ∧ t.sp.val = s.sp.val + 1 ∧
      (∀ k : Fin 16, t.stack[k.val] = if k.val = s.sp.val then s.pc + 2 else s.stack[k.val]) ∧
      t.pc.toNat = nnn.toNat ∧ OnlyChanges [.sp, .stack, .pc] s t) ∧
    (s.sp.val = 16 → Faults (.call nnn) s .stackOverflow)

/-- 42_control_flow.md R140, R142: a call and a return right after it come back to the address after the call, with the
depth and every live entry as before. -/
def Obligations.CallThenReturnComesBack : Prop :=
  ∀ (s : State) (nnn : Addr12), s.sp.val < 16 →
    ∃ t u, exec (.call nnn) s = .next t ∧ exec .ret t = .next u ∧ u.pc = s.pc + 2 ∧ u.sp = s.sp ∧
      (∀ k : Fin 16, k.val < s.sp.val → u.stack[k.val] = s.stack[k.val]) ∧
      OnlyChanges [.stack, .pc] s u

/-! ### Skips -/

/-- 43_skips.md R160, R161. -/
def Obligations.ImmediateSkips : Prop :=
  ∀ (s : State) (x : Nibble) (nn : Byte),
    decode (0x3000 ||| atX x ||| atLow nn) = .ok (.seImm x nn) ∧
    decode (0x4000 ||| atX x ||| atLow nn) = .ok (.sneImm x nn) ∧
    GoesTo (.seImm x nn) s (if s.reg x = nn then s.pc + 4 else s.pc + 2) ∧
    GoesTo (.sneImm x nn) s (if s.reg x ≠ nn then s.pc + 4 else s.pc + 2)

/-- 43_skips.md R162, R163; a nonzero low nibble is unrecognized. -/
def Obligations.RegisterSkips : Prop :=
  ∀ (s : State) (x y : Nibble),
    decode (0x5000 ||| atX x ||| atY y) = .ok (.seReg x y) ∧
    decode (0x9000 ||| atX x ||| atY y) = .ok (.sneReg x y) ∧
    (∀ n : Nibble, n ≠ 0 → ∃ e e',
      decode (0x5000 ||| atX x ||| atY y ||| atLow n) = .error e ∧
      decode (0x9000 ||| atX x ||| atY y ||| atLow n) = .error e') ∧
    GoesTo (.seReg x y) s (if s.reg x = s.reg y then s.pc + 4 else s.pc + 2) ∧
    GoesTo (.sneReg x y) s (if s.reg x ≠ s.reg y then s.pc + 4 else s.pc + 2)

/-- 43_skips.md R164, R165: the key is the register's value; a value above 15 faults. -/
def Obligations.KeySkips : Prop :=
  ∀ (s : State) (x : Nibble),
    decode (0xE09E ||| atX x) = .ok (.skp x) ∧
    decode (0xE0A1 ||| atX x) = .ok (.sknp x) ∧
    (∀ k : Nibble, (s.reg x).toNat = k.toNat →
      GoesTo (.skp x) s (if s.key k = true then s.pc + 4 else s.pc + 2) ∧
      GoesTo (.sknp x) s (if s.key k = false then s.pc + 4 else s.pc + 2)) ∧
    ((s.reg x).toNat > 15 → Faults (.skp x) s .operandOutOfRange ∧ Faults (.sknp x) s .operandOutOfRange)

/-! ### Arithmetic and logic -/

/-- 44_alu.md R180, R181: no flag is written, VF included only as the destination. -/
def Obligations.ImmediateLoadAndAdd : Prop :=
  ∀ (s : State) (x : Nibble) (nn : Byte),
    decode (0x6000 ||| atX x ||| atLow nn) = .ok (.ldImm x nn) ∧
    decode (0x7000 ||| atX x ||| atLow nn) = .ok (.addImm x nn) ∧
    WritesReg (.ldImm x nn) s x nn ∧
    WritesReg (.addImm x nn) s x (BitVec.ofNat 8 (((s.reg x).toNat + nn.toNat) % 256))

/-- 44_alu.md R182, R183, R184, R185: the bits of the result, and VF untouched unless it is the destination. -/
def Obligations.CopyAndBitwise : Prop :=
  ∀ (s : State) (x y : Nibble),
    decode (0x8000 ||| atX x ||| atY y) = .ok (.ldReg x y) ∧
    decode (0x8001 ||| atX x ||| atY y) = .ok (.or x y) ∧
    decode (0x8002 ||| atX x ||| atY y) = .ok (.and x y) ∧
    decode (0x8003 ||| atX x ||| atY y) = .ok (.xor x y) ∧
    WritesReg (.ldReg x y) s x (s.reg y) ∧
    WritesReg (.or x y) s x (BitVec.ofNat 8 ((s.reg x).toNat ||| (s.reg y).toNat)) ∧
    WritesReg (.and x y) s x (BitVec.ofNat 8 ((s.reg x).toNat &&& (s.reg y).toNat)) ∧
    WritesReg (.xor x y) s x (BitVec.ofNat 8 ((s.reg x).toNat ^^^ (s.reg y).toNat))

/-- 44_alu.md R186. -/
def Obligations.AddSetsCarry : Prop :=
  ∀ (s : State) (x y : Nibble),
    decode (0x8004 ||| atX x ||| atY y) = .ok (.addReg x y) ∧
    WritesRegAndFlag (.addReg x y) s x (BitVec.ofNat 8 (((s.reg x).toNat + (s.reg y).toNat) % 256))
      ((s.reg x).toNat + (s.reg y).toNat > 255)

/-- 44_alu.md R187, R189. -/
def Obligations.SubtractionsSetNoBorrow : Prop :=
  ∀ (s : State) (x y : Nibble),
    decode (0x8005 ||| atX x ||| atY y) = .ok (.sub x y) ∧
    decode (0x8007 ||| atX x ||| atY y) = .ok (.subn x y) ∧
    WritesRegAndFlag (.sub x y) s x (s.reg x - s.reg y) ((s.reg x).toNat ≥ (s.reg y).toNat) ∧
    WritesRegAndFlag (.subn x y) s x (s.reg y - s.reg x) ((s.reg y).toNat ≥ (s.reg x).toNat)

/-- 44_alu.md R188, R190: `V[x]` is shifted by one; the result and the flag are the same for every `y`. -/
def Obligations.ShiftsSetBitShiftedOut : Prop :=
  ∀ (s : State) (x y : Nibble),
    decode (0x8006 ||| atX x ||| atY y) = .ok (.shr x y) ∧
    decode (0x800E ||| atX x ||| atY y) = .ok (.shl x y) ∧
    WritesRegAndFlag (.shr x y) s x (BitVec.ofNat 8 ((s.reg x).toNat / 2)) ((s.reg x).toNat % 2 = 1) ∧
    WritesRegAndFlag (.shl x y) s x (BitVec.ofNat 8 ((s.reg x).toNat * 2 % 256)) ((s.reg x).toNat ≥ 128)

/-- 44_alu.md R191 (00_scope.md R13): `V[x]` ends as the step's draw masked with `nn`, whatever the draw is; a bit clear in
`nn` is clear in it. That the draw is the free value `Config.rand8` at the count of draws is the model's choice (log 4). -/
def Obligations.RandomMaskedByImmediate : Prop :=
  ∀ (s : State) (x : Nibble) (nn : Byte),
    decode (0xC000 ||| atX x ||| atLow nn) = .ok (.rnd x nn) ∧
    ∃ t, exec (.rnd x nn) s = .next t ∧ t.reg x = Config.rand8 s.draws &&& nn ∧
      (∀ b, nn.getLsbD b = false → (t.reg x).getLsbD b = false) ∧
      (∀ k, k ≠ x → t.reg k = s.reg k) ∧ t.pc = s.pc + 2 ∧ t.draws = s.draws + 1 ∧
      OnlyChanges [.V, .pc, .draws] s t

/-! ### Index register and memory -/

/-- 45_index_memory.md R220, R221: `I` is set to `nnn`, or raised with 16-bit wrap and no flag. -/
def Obligations.IndexLoadAndAdd : Prop :=
  ∀ (s : State) (nnn : Addr12) (x : Nibble),
    decode (0xA000 ||| atLow nnn) = .ok (.ldI nnn) ∧
    decode (0xF01E ||| atX x) = .ok (.addI x) ∧
    (∃ t, exec (.ldI nnn) s = .next t ∧ t.I.toNat = nnn.toNat ∧ t.pc = s.pc + 2 ∧ OnlyChanges [.I, .pc] s t) ∧
    (∃ t, exec (.addI x) s = .next t ∧ t.I.toNat = (s.I.toNat + (s.reg x).toNat) % 65536 ∧ t.pc = s.pc + 2 ∧
      OnlyChanges [.I, .pc] s t)

/-- 45_index_memory.md R222. -/
def Obligations.GlyphAddressOfDigit : Prop :=
  ∀ (s : State) (x : Nibble),
    decode (0xF029 ||| atX x) = .ok (.ldF x) ∧
    ((s.reg x).toNat ≤ 15 → ∃ t, exec (.ldF x) s = .next t ∧
      t.I.toNat = s.cfg.fontBase.toNat + 5 * (s.reg x).toNat ∧ t.pc = s.pc + 2 ∧ OnlyChanges [.I, .pc] s t) ∧
    ((s.reg x).toNat > 15 → Faults (.ldF x) s .operandOutOfRange)

/-- 45_index_memory.md R223: hundreds, tens and ones go to the three bytes at `I`; every other byte is as before. -/
def Obligations.DecimalDigitsStored : Prop :=
  ∀ (s : State) (x : Nibble),
    decode (0xF033 ||| atX x) = .ok (.ldB x) ∧
    (s.I.toNat + 2 ≤ 0xFFF → (s.cfg.protectReserved = true → 0x200 ≤ s.I.toNat) →
      ∃ t, exec (.ldB x) s = .next t ∧
        (t.readByte s.I.toNat).toNat = (s.reg x).toNat / 100 ∧
        (t.readByte (s.I.toNat + 1)).toNat = (s.reg x).toNat / 10 % 10 ∧
        (t.readByte (s.I.toNat + 2)).toNat = (s.reg x).toNat % 10 ∧
        (∀ a, a < s.I.toNat ∨ s.I.toNat + 2 < a → t.readByte a = s.readByte a) ∧
        t.pc = s.pc + 2 ∧ OnlyChanges [.mem, .pc] s t) ∧
    (s.I.toNat + 2 > 0xFFF → Faults (.ldB x) s .outOfBoundsAccess) ∧
    (s.cfg.protectReserved = true → s.I.toNat ≤ 0x1FF → Faults (.ldB x) s .reservedWrite)

/-- 45_index_memory.md R224: `V[0]` to `V[x]` go to the bytes from `I` up; every other byte, and `I`, are as before. -/
def Obligations.RegistersStored : Prop :=
  ∀ (s : State) (x : Nibble),
    decode (0xF055 ||| atX x) = .ok (.ldMemVx x) ∧
    (s.I.toNat + x.toNat ≤ 0xFFF → (s.cfg.protectReserved = true → 0x200 ≤ s.I.toNat) →
      ∃ t, exec (.ldMemVx x) s = .next t ∧
        (∀ k : Nibble, k.toNat ≤ x.toNat → t.readByte (s.I.toNat + k.toNat) = s.reg k) ∧
        (∀ a, a < s.I.toNat ∨ s.I.toNat + x.toNat < a → t.readByte a = s.readByte a) ∧
        t.pc = s.pc + 2 ∧ OnlyChanges [.mem, .pc] s t) ∧
    (s.I.toNat + x.toNat > 0xFFF → Faults (.ldMemVx x) s .outOfBoundsAccess) ∧
    (s.cfg.protectReserved = true → s.I.toNat ≤ 0x1FF → Faults (.ldMemVx x) s .reservedWrite)

/-- 45_index_memory.md R225: the bytes from `I` up go to `V[0]` to `V[x]`; the reserved area may be read. -/
def Obligations.RegistersLoaded : Prop :=
  ∀ (s : State) (x : Nibble),
    decode (0xF065 ||| atX x) = .ok (.ldVxMem x) ∧
    (s.I.toNat + x.toNat ≤ 0xFFF →
      ∃ t, exec (.ldVxMem x) s = .next t ∧
        (∀ k : Nibble, t.reg k = if k.toNat ≤ x.toNat then s.readByte (s.I.toNat + k.toNat) else s.reg k) ∧
        t.pc = s.pc + 2 ∧ OnlyChanges [.V, .pc] s t) ∧
    (s.I.toNat + x.toNat > 0xFFF → Faults (.ldVxMem x) s .outOfBoundsAccess)

/-- 45_index_memory.md R224, R225: a store of `V[0..x]` that does not fault, then a load of the same range after any change
of the registers, gives the stored registers back. -/
def Obligations.StoreThenLoadRestoresRegisters : Prop :=
  ∀ (s : State) (x : Nibble) (v : Vector Byte 16), s.I.toNat + x.toNat ≤ 0xFFF →
    (s.cfg.protectReserved = true → 0x200 ≤ s.I.toNat) →
    ∃ t u, exec (.ldMemVx x) s = .next t ∧ exec (.ldVxMem x) { t with V := v } = .next u ∧
      ∀ k : Nibble, k.toNat ≤ x.toNat → u.reg k = s.reg k

/-- 20_memory.md R65: two registers stored by Fx55 over the next instruction's bytes are what the very next step runs. -/
def Obligations.StoredCodeRunsNext : Prop :=
  ∀ (s : State) (x k : Nibble) (i : Instr), s.CanFetch →
    s.I.toNat + x.toNat ≤ 0xFFF → (s.cfg.protectReserved = true → 0x200 ≤ s.I.toNat) →
    k.toNat + 1 ≤ x.toNat → s.I.toNat + k.toNat = s.pc.toNat + 2 →
    decode (s.wordAt s.pc.toNat) = .ok (.ldMemVx x) →
    decode (wordOfBytes (s.reg k) (s.reg (k + 1))) = .ok i →
    ∃ t, step s = .next t ∧ step t = exec i t

/-! ### Timers and input -/

/-- 46_timers_input.md R250, R252, R253: DT is read, DT and ST are written, and the accumulator is not touched. -/
def Obligations.TimerRegistersMoved : Prop :=
  ∀ (s : State) (x : Nibble),
    decode (0xF007 ||| atX x) = .ok (.ldVxDt x) ∧
    decode (0xF015 ||| atX x) = .ok (.ldDt x) ∧
    decode (0xF018 ||| atX x) = .ok (.ldSt x) ∧
    WritesReg (.ldVxDt x) s x s.DT ∧
    (∃ t, exec (.ldDt x) s = .next t ∧ t.DT = s.reg x ∧ t.pc = s.pc + 2 ∧ OnlyChanges [.DT, .pc] s t) ∧
    (∃ t, exec (.ldSt x) s = .next t ∧ t.ST = s.reg x ∧ (t.soundActive = true ↔ s.reg x ≠ 0) ∧
      t.pc = s.pc + 2 ∧ OnlyChanges [.ST, .pc] s t)

/-- 46_timers_input.md R251: Fx0A suspends the engine with the pc at the next instruction, whatever keys are held, and
writes no register. -/
def Obligations.KeyWaitSuspends : Prop :=
  ∀ (s : State) (x : Nibble),
    decode (0xF00A ||| atX x) = .ok (.ldVxK x) ∧
    ∃ t, exec (.ldVxK x) s = .next t ∧ t.mode = .suspended x ∧ t.pc = s.pc + 2 ∧ OnlyChanges [.mode, .pc] s t

/-- 46_timers_input.md R251, R254: a whole key wait: the step suspends, a further step does nothing, a key that was
released going down writes its index and resumes after the instruction; a key already held does not end the wait. -/
def Obligations.KeyWaitEndsOnNewPress : Prop :=
  ∀ (s : State) (x k : Nibble), s.CanFetch → decode (s.wordAt s.pc.toNat) = .ok (.ldVxK x) →
    ∃ t, step s = .next t ∧ step t = .next t ∧
      (s.key k = true → (t.setKeyState k true).mode = .suspended x) ∧
      (s.key k = false → (t.setKeyState k true).mode = .running ∧ (t.setKeyState k true).pc = s.pc + 2 ∧
        ((t.setKeyState k true).reg x).toNat = k.toNat ∧ OnlyChanges [.V, .pc, .keys, .mode] s (t.setKeyState k true))
end

