-- ==== Sys2Proof/Laws/Memory.lean ====
section
/-! SUPPORT. Memory: what a read gives after a write, for every memory, and that every memory operation keeps the
canonical form. -/

namespace Sys2Proof.Machine

variable (d : Nat → Byte)

theorem Memory.read_remove (m : Memory) (a x : Nat) :
    Memory.read d (Memory.remove m a) x = if x = a then d a else Memory.read d m x := by
  induction m with
  | nil => by_cases h : x = a <;> simp [Memory.remove, Memory.read, h]
  | cons c m ih =>
    obtain ⟨k, v⟩ := c
    by_cases hk : k = a
    · have : Memory.remove ((k, v) :: m) a = Memory.remove m a := by simp [Memory.remove, hk]
      rw [this, ih]
      by_cases hx : x = a
      · simp [hx]
      · have : k ≠ x := by omega
        simp [hx, Memory.read, this]
    · have : Memory.remove ((k, v) :: m) a = (k, v) :: Memory.remove m a := by simp [Memory.remove, hk]
      rw [this, Memory.read, Memory.read, ih]
      by_cases hx : x = a
      · have : k ≠ x := by omega
        simp [hx, hk]
      · simp [hx]

theorem Memory.read_put (m : Memory) (a x : Nat) (b : Byte) (h : ∀ p ∈ m, p.1 ≠ a) :
    Memory.read d (Memory.put m a b) x = if x = a then b else Memory.read d m x := by
  induction m with
  | nil => by_cases hx : a = x <;> simp [Memory.put, Memory.read, hx, eq_comm]
  | cons c m ih =>
    obtain ⟨k, v⟩ := c
    have hk : k ≠ a := h (k, v) (by simp)
    by_cases hlt : a < k
    · rw [Memory.put, if_pos hlt, Memory.read]
      simp only [eq_comm (a := a)]
    · rw [Memory.put, if_neg hlt, Memory.read, Memory.read, ih fun p hp => h p (by simp [hp])]
      by_cases hx : x = a
      · have : k ≠ x := by omega
        simp [hx, hk]
      · simp [hx]

theorem Memory.mem_remove {m : Memory} {a : Nat} {p : Host.Cell} :
    p ∈ Memory.remove m a ↔ p ∈ m ∧ p.1 ≠ a := by simp [Memory.remove]

/-- A read after a write: the byte written at its address, every other address as before. It holds of every memory,
canonical or not. -/
@[simp] theorem Memory.read_write (m : Memory) (a x : Nat) (b : Byte) :
    Memory.read d (Memory.write d m a b) x = if x = a then b else Memory.read d m x := by
  unfold Memory.write
  split
  · next h => rw [Memory.read_remove, h]
  · rw [Memory.read_put d _ _ _ _ fun p hp => (Memory.mem_remove.1 hp).2, Memory.read_remove]
    split <;> simp_all

/-- A read after a write of bytes: the byte written there, every other address as before. -/
theorem Memory.read_writeList (m : Memory) (a x : Nat) (bs : List Byte) :
    Memory.read d (Memory.writeList d m a bs) x =
      if h : a ≤ x ∧ x < a + bs.length then bs[x - a]'(by omega) else Memory.read d m x := by
  induction bs generalizing m a with
  | nil =>
    rw [dif_neg (by simp)]
    rfl
  | cons b bs ih =>
    rw [Memory.writeList, ih, Memory.read_write]
    rcases lt_trichotomy x a with h | h | h
    · rw [dif_neg (by omega), dif_neg (by simp; omega), if_neg (by omega)]
    · subst h
      rw [dif_neg (by omega), dif_pos (by simp), if_pos rfl]
      simp
    · by_cases hx : x < a + 1 + bs.length
      · rw [dif_pos (by omega), dif_pos (by simp; omega)]
        rw [List.getElem_cons, dif_neg (by omega)]
        congr 1
      · rw [dif_neg (by omega), dif_neg (by simp; omega), if_neg (by omega)]

theorem Memory.mem_put {m : Memory} {a : Nat} {b : Byte} {p : Host.Cell} :
    p ∈ Memory.put m a b ↔ p = (a, b) ∨ p ∈ m := by
  induction m with
  | nil => simp [Memory.put]
  | cons c m ih =>
    rw [Memory.put]
    split
    · simp
    · simp only [List.mem_cons, ih]
      tauto

theorem Memory.pairwise_put {m : Memory} {a : Nat} {b : Byte}
    (hm : m.Pairwise fun p q => p.1 < q.1) (h : ∀ p ∈ m, p.1 ≠ a) :
    (Memory.put m a b).Pairwise fun p q => p.1 < q.1 := by
  induction m with
  | nil => simp [Memory.put]
  | cons c m ih =>
    rw [List.pairwise_cons] at hm
    rw [Memory.put]
    split
    · next hlt =>
      refine List.pairwise_cons.2 ⟨?_, List.pairwise_cons.2 hm⟩
      intro p hp
      rcases List.mem_cons.1 hp with rfl | hp
      · exact hlt
      · exact Nat.lt_trans hlt (hm.1 p hp)
    · next hge =>
      refine List.pairwise_cons.2 ⟨?_, ih hm.2 fun p hp => h p (List.mem_cons_of_mem _ hp)⟩
      intro p hp
      rcases Memory.mem_put.1 hp with rfl | hp
      · have := h c List.mem_cons_self
        dsimp at *
        omega
      · exact hm.1 p hp

theorem Memory.wf_nil : Memory.wf d [] := by simp [Memory.wf]

theorem Memory.wf_remove {m : Memory} (a : Nat) (h : Memory.wf d m) : Memory.wf d (Memory.remove m a) :=
  ⟨h.1.filter _, fun p hp => h.2 p (Memory.mem_remove.1 hp).1⟩

/-- A write of one byte keeps the canonical form. -/
theorem Memory.wf_write {m : Memory} {a : Nat} (b : Byte) (h : Memory.wf d m) (ha : a < memSize) :
    Memory.wf d (Memory.write d m a b) := by
  unfold Memory.write
  split
  · exact Memory.wf_remove d a h
  · next hb =>
    have hr := Memory.wf_remove d a h
    refine ⟨Memory.pairwise_put hr.1 fun p hp => (Memory.mem_remove.1 hp).2, fun p hp => ?_⟩
    rcases Memory.mem_put.1 hp with rfl | hp
    · exact ⟨ha, hb⟩
    · exact hr.2 p hp

/-- A write of bytes inside the address space keeps the canonical form. -/
theorem Memory.wf_writeList {m : Memory} {a : Nat} {bs : List Byte} (h : Memory.wf d m)
    (ha : a + bs.length ≤ memSize) : Memory.wf d (Memory.writeList d m a bs) := by
  induction bs generalizing m a with
  | nil => exact h
  | cons b bs ih =>
    simp only [List.length_cons] at ha
    exact ih (Memory.wf_write d b h (by omega)) (by omega)

/-- The reset memory lists nothing and is canonical, under every configuration. -/
theorem State.powerOn_mem_wf (c : Config) : Memory.wf (resetByte c) (State.powerOn c).mem := Memory.wf_nil _

end Sys2Proof.Machine
end

