-- ==== Sys2Proof/Laws/State.lean ====
section
/-! SUPPORT. One lemma per field per update of State: what each update leaves in each field. -/

namespace Sys2Proof.Machine

variable (s : State)

@[simp] theorem State.setReg_mem (x : Nibble) (v : Byte) : (s.setReg x v).mem = s.mem := rfl
@[simp] theorem State.setReg_V (x : Nibble) (v : Byte) : (s.setReg x v).V = s.V.set x.toNat v x.isLt := rfl
@[simp] theorem State.setReg_I (x : Nibble) (v : Byte) : (s.setReg x v).I = s.I := rfl
@[simp] theorem State.setReg_pc (x : Nibble) (v : Byte) : (s.setReg x v).pc = s.pc := rfl
@[simp] theorem State.setReg_stack (x : Nibble) (v : Byte) : (s.setReg x v).stack = s.stack := rfl
@[simp] theorem State.setReg_sp (x : Nibble) (v : Byte) : (s.setReg x v).sp = s.sp := rfl
@[simp] theorem State.setReg_DT (x : Nibble) (v : Byte) : (s.setReg x v).DT = s.DT := rfl
@[simp] theorem State.setReg_ST (x : Nibble) (v : Byte) : (s.setReg x v).ST = s.ST := rfl
@[simp] theorem State.setReg_acc (x : Nibble) (v : Byte) : (s.setReg x v).acc = s.acc := rfl
@[simp] theorem State.setReg_fb (x : Nibble) (v : Byte) : (s.setReg x v).fb = s.fb := rfl
@[simp] theorem State.setReg_keys (x : Nibble) (v : Byte) : (s.setReg x v).keys = s.keys := rfl
@[simp] theorem State.setReg_mode (x : Nibble) (v : Byte) : (s.setReg x v).mode = s.mode := rfl
@[simp] theorem State.setReg_cfg (x : Nibble) (v : Byte) : (s.setReg x v).cfg = s.cfg := rfl
@[simp] theorem State.setReg_draws (x : Nibble) (v : Byte) : (s.setReg x v).draws = s.draws := rfl

@[simp] theorem State.setPc_mem (a : Word) : (s.setPc a).mem = s.mem := rfl
@[simp] theorem State.setPc_V (a : Word) : (s.setPc a).V = s.V := rfl
@[simp] theorem State.setPc_I (a : Word) : (s.setPc a).I = s.I := rfl
@[simp] theorem State.setPc_pc (a : Word) : (s.setPc a).pc = a := rfl
@[simp] theorem State.setPc_stack (a : Word) : (s.setPc a).stack = s.stack := rfl
@[simp] theorem State.setPc_sp (a : Word) : (s.setPc a).sp = s.sp := rfl
@[simp] theorem State.setPc_DT (a : Word) : (s.setPc a).DT = s.DT := rfl
@[simp] theorem State.setPc_ST (a : Word) : (s.setPc a).ST = s.ST := rfl
@[simp] theorem State.setPc_acc (a : Word) : (s.setPc a).acc = s.acc := rfl
@[simp] theorem State.setPc_fb (a : Word) : (s.setPc a).fb = s.fb := rfl
@[simp] theorem State.setPc_keys (a : Word) : (s.setPc a).keys = s.keys := rfl
@[simp] theorem State.setPc_mode (a : Word) : (s.setPc a).mode = s.mode := rfl
@[simp] theorem State.setPc_cfg (a : Word) : (s.setPc a).cfg = s.cfg := rfl
@[simp] theorem State.setPc_draws (a : Word) : (s.setPc a).draws = s.draws := rfl

@[simp] theorem State.advance_mem : (s.advance).mem = s.mem := rfl
@[simp] theorem State.advance_V : (s.advance).V = s.V := rfl
@[simp] theorem State.advance_I : (s.advance).I = s.I := rfl
@[simp] theorem State.advance_pc : (s.advance).pc = s.pc + 2 := rfl
@[simp] theorem State.advance_stack : (s.advance).stack = s.stack := rfl
@[simp] theorem State.advance_sp : (s.advance).sp = s.sp := rfl
@[simp] theorem State.advance_DT : (s.advance).DT = s.DT := rfl
@[simp] theorem State.advance_ST : (s.advance).ST = s.ST := rfl
@[simp] theorem State.advance_acc : (s.advance).acc = s.acc := rfl
@[simp] theorem State.advance_fb : (s.advance).fb = s.fb := rfl
@[simp] theorem State.advance_keys : (s.advance).keys = s.keys := rfl
@[simp] theorem State.advance_mode : (s.advance).mode = s.mode := rfl
@[simp] theorem State.advance_cfg : (s.advance).cfg = s.cfg := rfl
@[simp] theorem State.advance_draws : (s.advance).draws = s.draws := rfl

@[simp] theorem State.setFlag_mem (f : Bool) : (s.setFlag f).mem = s.mem := rfl
@[simp] theorem State.setFlag_V (f : Bool) : (s.setFlag f).V = s.V.set 15 (flagByte f) := rfl
@[simp] theorem State.setFlag_I (f : Bool) : (s.setFlag f).I = s.I := rfl
@[simp] theorem State.setFlag_pc (f : Bool) : (s.setFlag f).pc = s.pc := rfl
@[simp] theorem State.setFlag_stack (f : Bool) : (s.setFlag f).stack = s.stack := rfl
@[simp] theorem State.setFlag_sp (f : Bool) : (s.setFlag f).sp = s.sp := rfl
@[simp] theorem State.setFlag_DT (f : Bool) : (s.setFlag f).DT = s.DT := rfl
@[simp] theorem State.setFlag_ST (f : Bool) : (s.setFlag f).ST = s.ST := rfl
@[simp] theorem State.setFlag_acc (f : Bool) : (s.setFlag f).acc = s.acc := rfl
@[simp] theorem State.setFlag_fb (f : Bool) : (s.setFlag f).fb = s.fb := rfl
@[simp] theorem State.setFlag_keys (f : Bool) : (s.setFlag f).keys = s.keys := rfl
@[simp] theorem State.setFlag_mode (f : Bool) : (s.setFlag f).mode = s.mode := rfl
@[simp] theorem State.setFlag_cfg (f : Bool) : (s.setFlag f).cfg = s.cfg := rfl
@[simp] theorem State.setFlag_draws (f : Bool) : (s.setFlag f).draws = s.draws := rfl

@[simp] theorem State.setRegThenFlag_mem (x : Nibble) (r : Byte × Bool) : (s.setRegThenFlag x r).mem = s.mem := rfl
@[simp] theorem State.setRegThenFlag_I (x : Nibble) (r : Byte × Bool) : (s.setRegThenFlag x r).I = s.I := rfl
@[simp] theorem State.setRegThenFlag_pc (x : Nibble) (r : Byte × Bool) : (s.setRegThenFlag x r).pc = s.pc := rfl
@[simp] theorem State.setRegThenFlag_stack (x : Nibble) (r : Byte × Bool) : (s.setRegThenFlag x r).stack = s.stack := rfl
@[simp] theorem State.setRegThenFlag_sp (x : Nibble) (r : Byte × Bool) : (s.setRegThenFlag x r).sp = s.sp := rfl
@[simp] theorem State.setRegThenFlag_DT (x : Nibble) (r : Byte × Bool) : (s.setRegThenFlag x r).DT = s.DT := rfl
@[simp] theorem State.setRegThenFlag_ST (x : Nibble) (r : Byte × Bool) : (s.setRegThenFlag x r).ST = s.ST := rfl
@[simp] theorem State.setRegThenFlag_acc (x : Nibble) (r : Byte × Bool) : (s.setRegThenFlag x r).acc = s.acc := rfl
@[simp] theorem State.setRegThenFlag_fb (x : Nibble) (r : Byte × Bool) : (s.setRegThenFlag x r).fb = s.fb := rfl
@[simp] theorem State.setRegThenFlag_keys (x : Nibble) (r : Byte × Bool) : (s.setRegThenFlag x r).keys = s.keys := rfl
@[simp] theorem State.setRegThenFlag_mode (x : Nibble) (r : Byte × Bool) : (s.setRegThenFlag x r).mode = s.mode := rfl
@[simp] theorem State.setRegThenFlag_cfg (x : Nibble) (r : Byte × Bool) : (s.setRegThenFlag x r).cfg = s.cfg := rfl
@[simp] theorem State.setRegThenFlag_draws (x : Nibble) (r : Byte × Bool) : (s.setRegThenFlag x r).draws = s.draws := rfl

@[simp] theorem State.takeFault_mem (k : FaultKind) (w : Option Word) : (s.takeFault k w).mem = s.mem := rfl
@[simp] theorem State.takeFault_V (k : FaultKind) (w : Option Word) : (s.takeFault k w).V = s.V := rfl
@[simp] theorem State.takeFault_I (k : FaultKind) (w : Option Word) : (s.takeFault k w).I = s.I := rfl
@[simp] theorem State.takeFault_pc (k : FaultKind) (w : Option Word) : (s.takeFault k w).pc = s.pc := rfl
@[simp] theorem State.takeFault_stack (k : FaultKind) (w : Option Word) : (s.takeFault k w).stack = s.stack := rfl
@[simp] theorem State.takeFault_sp (k : FaultKind) (w : Option Word) : (s.takeFault k w).sp = s.sp := rfl
@[simp] theorem State.takeFault_DT (k : FaultKind) (w : Option Word) : (s.takeFault k w).DT = s.DT := rfl
@[simp] theorem State.takeFault_ST (k : FaultKind) (w : Option Word) : (s.takeFault k w).ST = s.ST := rfl
@[simp] theorem State.takeFault_acc (k : FaultKind) (w : Option Word) : (s.takeFault k w).acc = s.acc := rfl
@[simp] theorem State.takeFault_fb (k : FaultKind) (w : Option Word) : (s.takeFault k w).fb = s.fb := rfl
@[simp] theorem State.takeFault_keys (k : FaultKind) (w : Option Word) : (s.takeFault k w).keys = s.keys := rfl
@[simp] theorem State.takeFault_mode (k : FaultKind) (w : Option Word) : (s.takeFault k w).mode = .halted { kind := k, addr := s.pc, word := w } := rfl
@[simp] theorem State.takeFault_cfg (k : FaultKind) (w : Option Word) : (s.takeFault k w).cfg = s.cfg := rfl
@[simp] theorem State.takeFault_draws (k : FaultKind) (w : Option Word) : (s.takeFault k w).draws = s.draws := rfl

@[simp] theorem State.resume_mem (t k : Nibble) : (s.resume t k).mem = s.mem := rfl
@[simp] theorem State.resume_V (t k : Nibble) : (s.resume t k).V = s.V.set t.toNat (k.setWidth 8) t.isLt := rfl
@[simp] theorem State.resume_I (t k : Nibble) : (s.resume t k).I = s.I := rfl
@[simp] theorem State.resume_pc (t k : Nibble) : (s.resume t k).pc = s.pc := rfl
@[simp] theorem State.resume_stack (t k : Nibble) : (s.resume t k).stack = s.stack := rfl
@[simp] theorem State.resume_sp (t k : Nibble) : (s.resume t k).sp = s.sp := rfl
@[simp] theorem State.resume_DT (t k : Nibble) : (s.resume t k).DT = s.DT := rfl
@[simp] theorem State.resume_ST (t k : Nibble) : (s.resume t k).ST = s.ST := rfl
@[simp] theorem State.resume_acc (t k : Nibble) : (s.resume t k).acc = s.acc := rfl
@[simp] theorem State.resume_fb (t k : Nibble) : (s.resume t k).fb = s.fb := rfl
@[simp] theorem State.resume_keys (t k : Nibble) : (s.resume t k).keys = s.keys := rfl
@[simp] theorem State.resume_mode (t k : Nibble) : (s.resume t k).mode = .running := rfl
@[simp] theorem State.resume_cfg (t k : Nibble) : (s.resume t k).cfg = s.cfg := rfl
@[simp] theorem State.resume_draws (t k : Nibble) : (s.resume t k).draws = s.draws := rfl

@[simp] theorem State.storeBytes_mem (a : Nat) (b : List Byte) : (s.storeBytes a b).mem = Memory.writeList (resetByte s.cfg) s.mem a b := rfl
@[simp] theorem State.storeBytes_V (a : Nat) (b : List Byte) : (s.storeBytes a b).V = s.V := rfl
@[simp] theorem State.storeBytes_I (a : Nat) (b : List Byte) : (s.storeBytes a b).I = s.I := rfl
@[simp] theorem State.storeBytes_pc (a : Nat) (b : List Byte) : (s.storeBytes a b).pc = s.pc := rfl
@[simp] theorem State.storeBytes_stack (a : Nat) (b : List Byte) : (s.storeBytes a b).stack = s.stack := rfl
@[simp] theorem State.storeBytes_sp (a : Nat) (b : List Byte) : (s.storeBytes a b).sp = s.sp := rfl
@[simp] theorem State.storeBytes_DT (a : Nat) (b : List Byte) : (s.storeBytes a b).DT = s.DT := rfl
@[simp] theorem State.storeBytes_ST (a : Nat) (b : List Byte) : (s.storeBytes a b).ST = s.ST := rfl
@[simp] theorem State.storeBytes_acc (a : Nat) (b : List Byte) : (s.storeBytes a b).acc = s.acc := rfl
@[simp] theorem State.storeBytes_fb (a : Nat) (b : List Byte) : (s.storeBytes a b).fb = s.fb := rfl
@[simp] theorem State.storeBytes_keys (a : Nat) (b : List Byte) : (s.storeBytes a b).keys = s.keys := rfl
@[simp] theorem State.storeBytes_mode (a : Nat) (b : List Byte) : (s.storeBytes a b).mode = s.mode := rfl
@[simp] theorem State.storeBytes_cfg (a : Nat) (b : List Byte) : (s.storeBytes a b).cfg = s.cfg := rfl
@[simp] theorem State.storeBytes_draws (a : Nat) (b : List Byte) : (s.storeBytes a b).draws = s.draws := rfl

@[simp] theorem State.drawSprite_mem (c0 r0 : Nat) (rows : List Byte) : (s.drawSprite c0 r0 rows).mem = s.mem := rfl
@[simp] theorem State.drawSprite_I (c0 r0 : Nat) (rows : List Byte) : (s.drawSprite c0 r0 rows).I = s.I := rfl
@[simp] theorem State.drawSprite_pc (c0 r0 : Nat) (rows : List Byte) : (s.drawSprite c0 r0 rows).pc = s.pc := rfl
@[simp] theorem State.drawSprite_stack (c0 r0 : Nat) (rows : List Byte) : (s.drawSprite c0 r0 rows).stack = s.stack := rfl
@[simp] theorem State.drawSprite_sp (c0 r0 : Nat) (rows : List Byte) : (s.drawSprite c0 r0 rows).sp = s.sp := rfl
@[simp] theorem State.drawSprite_DT (c0 r0 : Nat) (rows : List Byte) : (s.drawSprite c0 r0 rows).DT = s.DT := rfl
@[simp] theorem State.drawSprite_ST (c0 r0 : Nat) (rows : List Byte) : (s.drawSprite c0 r0 rows).ST = s.ST := rfl
@[simp] theorem State.drawSprite_acc (c0 r0 : Nat) (rows : List Byte) : (s.drawSprite c0 r0 rows).acc = s.acc := rfl
@[simp] theorem State.drawSprite_keys (c0 r0 : Nat) (rows : List Byte) : (s.drawSprite c0 r0 rows).keys = s.keys := rfl
@[simp] theorem State.drawSprite_mode (c0 r0 : Nat) (rows : List Byte) : (s.drawSprite c0 r0 rows).mode = s.mode := rfl
@[simp] theorem State.drawSprite_cfg (c0 r0 : Nat) (rows : List Byte) : (s.drawSprite c0 r0 rows).cfg = s.cfg := rfl
@[simp] theorem State.drawSprite_draws (c0 r0 : Nat) (rows : List Byte) : (s.drawSprite c0 r0 rows).draws = s.draws := rfl

@[simp] theorem State.setKey_mem (k : Nibble) (p : Bool) : (s.setKey k p).mem = s.mem := rfl
@[simp] theorem State.setKey_V (k : Nibble) (p : Bool) : (s.setKey k p).V = s.V := rfl
@[simp] theorem State.setKey_I (k : Nibble) (p : Bool) : (s.setKey k p).I = s.I := rfl
@[simp] theorem State.setKey_pc (k : Nibble) (p : Bool) : (s.setKey k p).pc = s.pc := rfl
@[simp] theorem State.setKey_stack (k : Nibble) (p : Bool) : (s.setKey k p).stack = s.stack := rfl
@[simp] theorem State.setKey_sp (k : Nibble) (p : Bool) : (s.setKey k p).sp = s.sp := rfl
@[simp] theorem State.setKey_DT (k : Nibble) (p : Bool) : (s.setKey k p).DT = s.DT := rfl
@[simp] theorem State.setKey_ST (k : Nibble) (p : Bool) : (s.setKey k p).ST = s.ST := rfl
@[simp] theorem State.setKey_acc (k : Nibble) (p : Bool) : (s.setKey k p).acc = s.acc := rfl
@[simp] theorem State.setKey_fb (k : Nibble) (p : Bool) : (s.setKey k p).fb = s.fb := rfl
@[simp] theorem State.setKey_keys (k : Nibble) (p : Bool) : (s.setKey k p).keys = s.keys.set k.toNat p k.isLt := rfl
@[simp] theorem State.setKey_mode (k : Nibble) (p : Bool) : (s.setKey k p).mode = s.mode := rfl
@[simp] theorem State.setKey_cfg (k : Nibble) (p : Bool) : (s.setKey k p).cfg = s.cfg := rfl
@[simp] theorem State.setKey_draws (k : Nibble) (p : Bool) : (s.setKey k p).draws = s.draws := rfl

@[simp] theorem State.advanceTimers_mem (e : Rat) : (s.advanceTimers e).mem = s.mem := rfl
@[simp] theorem State.advanceTimers_V (e : Rat) : (s.advanceTimers e).V = s.V := rfl
@[simp] theorem State.advanceTimers_I (e : Rat) : (s.advanceTimers e).I = s.I := rfl
@[simp] theorem State.advanceTimers_pc (e : Rat) : (s.advanceTimers e).pc = s.pc := rfl
@[simp] theorem State.advanceTimers_stack (e : Rat) : (s.advanceTimers e).stack = s.stack := rfl
@[simp] theorem State.advanceTimers_sp (e : Rat) : (s.advanceTimers e).sp = s.sp := rfl
@[simp] theorem State.advanceTimers_DT (e : Rat) : (s.advanceTimers e).DT = decay s.DT (ticksIn (s.acc + e)) := rfl
@[simp] theorem State.advanceTimers_ST (e : Rat) : (s.advanceTimers e).ST = decay s.ST (ticksIn (s.acc + e)) := rfl
@[simp] theorem State.advanceTimers_acc (e : Rat) : (s.advanceTimers e).acc = s.acc + e - (ticksIn (s.acc + e) : Rat) / timerHz := rfl
@[simp] theorem State.advanceTimers_fb (e : Rat) : (s.advanceTimers e).fb = s.fb := rfl
@[simp] theorem State.advanceTimers_keys (e : Rat) : (s.advanceTimers e).keys = s.keys := rfl
@[simp] theorem State.advanceTimers_mode (e : Rat) : (s.advanceTimers e).mode = s.mode := rfl
@[simp] theorem State.advanceTimers_cfg (e : Rat) : (s.advanceTimers e).cfg = s.cfg := rfl
@[simp] theorem State.advanceTimers_draws (e : Rat) : (s.advanceTimers e).draws = s.draws := rfl

@[simp] theorem State.skipIf_mem (c : Bool) : (s.skipIf c).mem = s.mem := by cases c <;> rfl
@[simp] theorem State.skipIf_V (c : Bool) : (s.skipIf c).V = s.V := by cases c <;> rfl
@[simp] theorem State.skipIf_I (c : Bool) : (s.skipIf c).I = s.I := by cases c <;> rfl
@[simp] theorem State.skipIf_pc (c : Bool) : (s.skipIf c).pc = if c then s.pc + 2 else s.pc := by
  cases c <;> rfl
@[simp] theorem State.skipIf_stack (c : Bool) : (s.skipIf c).stack = s.stack := by cases c <;> rfl
@[simp] theorem State.skipIf_sp (c : Bool) : (s.skipIf c).sp = s.sp := by cases c <;> rfl
@[simp] theorem State.skipIf_DT (c : Bool) : (s.skipIf c).DT = s.DT := by cases c <;> rfl
@[simp] theorem State.skipIf_ST (c : Bool) : (s.skipIf c).ST = s.ST := by cases c <;> rfl
@[simp] theorem State.skipIf_acc (c : Bool) : (s.skipIf c).acc = s.acc := by cases c <;> rfl
@[simp] theorem State.skipIf_fb (c : Bool) : (s.skipIf c).fb = s.fb := by cases c <;> rfl
@[simp] theorem State.skipIf_keys (c : Bool) : (s.skipIf c).keys = s.keys := by cases c <;> rfl
@[simp] theorem State.skipIf_mode (c : Bool) : (s.skipIf c).mode = s.mode := by cases c <;> rfl
@[simp] theorem State.skipIf_cfg (c : Bool) : (s.skipIf c).cfg = s.cfg := by cases c <;> rfl
@[simp] theorem State.skipIf_draws (c : Bool) : (s.skipIf c).draws = s.draws := by cases c <;> rfl

end Sys2Proof.Machine
end

