-- ==== Sys2Proof/Laws/Ops.lean ====
section
/-! SUPPORT. One specification per shared operation: what it answers and when, to be cited instead of unfolding it. -/

namespace Sys2Proof.Machine

variable (s : State)

/-! ### Registers -/

/-- A register write is read back, and every other register is as before. -/
@[simp] theorem State.reg_setReg (x k : Nibble) (v : Byte) :
    (s.setReg x v).reg k = if k = x then v else s.reg k := by
  unfold State.reg State.setReg
  by_cases h : k = x
  · simp [h]
  · have hn : x.toNat ≠ k.toNat := fun e => h (BitVec.eq_of_toNat_eq e.symm)
    simp [h, Vector.getElem_set_ne _ _ hn]

@[simp] theorem State.reg_setPc (a : Word) (k : Nibble) : (s.setPc a).reg k = s.reg k := rfl
@[simp] theorem State.reg_advance (k : Nibble) : s.advance.reg k = s.reg k := rfl
@[simp] theorem State.reg_skipIf (c : Bool) (k : Nibble) : (s.skipIf c).reg k = s.reg k := by cases c <;> rfl
@[simp] theorem State.reg_takeFault (kind : FaultKind) (w : Option Word) (k : Nibble) :
    (s.takeFault kind w).reg k = s.reg k := rfl
@[simp] theorem State.reg_storeBytes (a : Nat) (bs : List Byte) (k : Nibble) :
    (s.storeBytes a bs).reg k = s.reg k := rfl
@[simp] theorem State.reg_setKey (j : Nibble) (p : Bool) (k : Nibble) : (s.setKey j p).reg k = s.reg k := rfl
@[simp] theorem State.reg_advanceTimers (e : Rat) (k : Nibble) : (s.advanceTimers e).reg k = s.reg k := rfl
@[simp] theorem State.reg_resume (t j k : Nibble) :
    (s.resume t j).reg k = if k = t then j.setWidth 8 else s.reg k := State.reg_setReg s t k _

/-- The flag write: VF holds it, every other register is as before. -/
@[simp] theorem State.reg_setFlag (f : Bool) (k : Nibble) :
    (s.setFlag f).reg k = if k = 15 then flagByte f else s.reg k := State.reg_setReg s 15 k _

/-- Result, then flag: VF ends as the flag even when it is also the destination (40_cycle.md R108). -/
@[simp] theorem State.reg_setRegThenFlag (x k : Nibble) (r : Byte × Bool) :
    (s.setRegThenFlag x r).reg k = if k = 15 then flagByte r.2 else if k = x then r.1 else s.reg k := by
  simp [State.setRegThenFlag]

/-- Two register files that agree at every index are one. -/
theorem V_ext {s t : State} (h : ∀ k : Nibble, s.reg k = t.reg k) : s.V = t.V := by
  apply Vector.ext
  intro i hi
  have := h (BitVec.ofNat 4 i)
  simpa [State.reg, Nat.mod_eq_of_lt hi] using this

/-! ### Memory -/

@[simp] theorem State.readByte_setReg (x : Nibble) (v : Byte) (a : Nat) :
    (s.setReg x v).readByte a = s.readByte a := rfl
@[simp] theorem State.readByte_setPc (p : Word) (a : Nat) : (s.setPc p).readByte a = s.readByte a := rfl
@[simp] theorem State.readByte_advance (a : Nat) : s.advance.readByte a = s.readByte a := rfl
@[simp] theorem State.readByte_skipIf (c : Bool) (a : Nat) : (s.skipIf c).readByte a = s.readByte a := by
  cases c <;> rfl
@[simp] theorem State.readByte_setFlag (f : Bool) (a : Nat) : (s.setFlag f).readByte a = s.readByte a := rfl
@[simp] theorem State.readByte_takeFault (k : FaultKind) (w : Option Word) (a : Nat) :
    (s.takeFault k w).readByte a = s.readByte a := rfl

/-- A store of bytes: each is read back at its address, every other address is as before. -/
theorem State.readByte_storeBytes (a x : Nat) (bs : List Byte) :
    (s.storeBytes a bs).readByte x =
      if h : a ≤ x ∧ x < a + bs.length then bs[x - a]'(by omega) else s.readByte x :=
  Memory.read_writeList _ _ _ _ _

theorem pastEnd_eq_true {a n : Nat} : pastEnd a n = true ↔ 1 ≤ n ∧ a + n > 0x1000 := by
  simp [pastEnd]
  omega

theorem pastEnd_eq_false {a n : Nat} : pastEnd a n = false ↔ n = 0 ∨ a + n ≤ 0x1000 := by
  rw [← Bool.not_eq_true, pastEnd_eq_true]
  omega

/-- `MemRead` answers the bytes of its range when the range is inside memory or empty, and otherwise raises
`OutOfBoundsAccess` (20_memory.md R55). -/
theorem State.memRead_eq (a n : Nat) :
    s.memRead a n =
      if n = 0 ∨ a + n ≤ 0x1000 then .ok ((List.range n).map fun k => s.readByte (a + k))
      else .error .outOfBoundsAccess := by
  unfold State.memRead
  by_cases h : n = 0 ∨ a + n ≤ 0x1000
  · rw [if_pos h, pastEnd_eq_false.2 h]
    rfl
  · rw [if_neg h, if_pos (pastEnd_eq_true.2 (by omega))]

/-- `MemWrite` of at least one byte: out of bounds first, then reserved, else the bytes are stored (20_memory.md R56). -/
theorem State.memWrite_eq (a : Nat) (bs : List Byte) (hb : bs ≠ []) :
    s.memWrite a bs =
      if a + bs.length > 0x1000 then .error .outOfBoundsAccess
      else if s.cfg.protectReserved = true ∧ a ≤ 0x1FF then .error .reservedWrite
      else .ok (s.storeBytes a bs) := by
  have hl : 1 ≤ bs.length := List.length_pos_iff.2 hb
  unfold State.memWrite
  by_cases h : a + bs.length > 0x1000
  · rw [if_pos h, if_pos (pastEnd_eq_true.2 ⟨hl, h⟩)]
  · rw [if_neg h, if_neg (by rw [pastEnd_eq_true]; omega)]
    simp [reservedHi, hl]

/-- A read that answers, answers the bytes of its range. -/
theorem State.memRead_ok {a n : Nat} {bs : List Byte} (h : s.memRead a n = .ok bs) :
    (n = 0 ∨ a + n ≤ 0x1000) ∧ bs = (List.range n).map fun k => s.readByte (a + k) := by
  rw [State.memRead_eq] at h
  split at h
  · next hr => exact ⟨hr, by cases h; rfl⟩
  · cases h

/-- A write that answers has stored the bytes, inside memory and, under protection, above the reserved area. -/
theorem State.memWrite_ok {a : Nat} {bs : List Byte} {t : State} (h : s.memWrite a bs = .ok t) :
    t = s.storeBytes a bs ∧ (bs = [] ∨
      (a + bs.length ≤ 0x1000 ∧ (s.cfg.protectReserved = true → 0x200 ≤ a))) := by
  by_cases hb : bs = []
  · subst hb
    refine ⟨?_, .inl rfl⟩
    have : s.memWrite a [] = .ok (s.storeBytes a []) := by simp [State.memWrite, pastEnd]
    rw [this] at h
    cases h
    rfl
  · rw [State.memWrite_eq s a bs hb] at h
    split at h
    · cases h
    · split at h
      · cases h
      · next h1 h2 =>
        refine ⟨by cases h; rfl, .inr ⟨by omega, fun hp => ?_⟩⟩
        by_contra hlt
        exact h2 ⟨hp, by omega⟩

/-! ### Call stack -/

/-- A push stores the address at index `sp` and raises the depth, or finds the stack full (42_control_flow.md R142). -/
theorem State.push_cases (a : Word) :
    (s.sp.val = 16 ∧ s.push a = .error .stackOverflow) ∨
      ∃ h : s.sp.val < 16,
        s.push a = .ok { s with stack := s.stack.set s.sp.val a h, sp := ⟨s.sp.val + 1, by omega⟩ } := by
  by_cases h : s.sp.val < 16
  · exact .inr ⟨h, by simp [State.push, h]⟩
  · exact .inl ⟨by omega, by simp [State.push, h]⟩

/-- A pop moves the top entry to the pc and lowers the depth, or finds the stack empty (42_control_flow.md R140). -/
theorem State.popToPc_cases :
    (s.sp.val = 0 ∧ s.popToPc = .error .stackUnderflow) ∨
      ∃ h : 0 < s.sp.val,
        s.popToPc = .ok { s with sp := ⟨s.sp.val - 1, by omega⟩, pc := s.stack[s.sp.val - 1]'(by omega) } := by
  by_cases h : 0 < s.sp.val
  · exact .inr ⟨h, by simp [State.popToPc, h]⟩
  · exact .inl ⟨by omega, by simp [State.popToPc, h]⟩

/-! ### Operands -/

/-- A register as an index: its value when at most 15, else `OperandOutOfRange`. -/
theorem State.regIndex_cases (x : Nibble) :
    ((s.reg x).toNat > 15 ∧ s.regIndex x = .error .operandOutOfRange) ∨
      ((s.reg x).toNat ≤ 15 ∧ s.regIndex x = .ok (BitVec.ofNat 4 (s.reg x).toNat)) := by
  by_cases h : (s.reg x).toNat > 15
  · exact .inl ⟨h, by simp [State.regIndex, h]⟩
  · exact .inr ⟨by omega, by simp [State.regIndex, h]⟩

@[simp] theorem State.length_regsUpTo (x : Nibble) : (s.regsUpTo x).length = x.toNat + 1 := by
  simp [State.regsUpTo, regRange]

theorem State.getElem_regsUpTo (x : Nibble) (k : Nat) (h : k < (s.regsUpTo x).length) :
    (s.regsUpTo x)[k] = s.reg (BitVec.ofNat 4 k) := by
  simp [State.regsUpTo, regRange]

@[simp] theorem length_decimalDigits (v : Byte) : (decimalDigits v).length = 3 := rfl

/-- The register range load changes only the register file. -/
theorem State.setRegsFrom_eq (j : Nat) (bs : List Byte) :
    s.setRegsFrom j bs = { s with V := (s.setRegsFrom j bs).V } := by
  induction bs generalizing s j with
  | nil => rfl
  | cons b bs ih =>
    rw [State.setRegsFrom, ih]
    rfl

/-- The register range load: register `j + k` holds byte `k`, the others are as before. -/
theorem State.reg_setRegsFrom (j : Nat) (bs : List Byte) (h : j + bs.length ≤ 16) (k : Nibble) :
    (s.setRegsFrom j bs).reg k =
      if h : j ≤ k.toNat ∧ k.toNat < j + bs.length then bs[k.toNat - j]'(by omega) else s.reg k := by
  induction bs generalizing s j with
  | nil =>
    rw [dif_neg (by simp)]
    rfl
  | cons b bs ih =>
    simp only [List.length_cons] at h
    rw [State.setRegsFrom, ih _ _ (by omega), State.reg_setReg]
    have hj : (BitVec.ofNat 4 j).toNat = j := by simp; omega
    by_cases hk : k = BitVec.ofNat 4 j
    · have hkj : k.toNat = j := by rw [hk, hj]
      rw [dif_neg (by omega), if_pos hk, dif_pos (by simp; omega)]
      simp [hkj]
    · have hkj : k.toNat ≠ j := fun e => hk (BitVec.eq_of_toNat_eq (by rw [e, hj]))
      rw [if_neg hk]
      by_cases hr : j + 1 ≤ k.toNat ∧ k.toNat < j + 1 + bs.length
      · rw [dif_pos hr, dif_pos (by simp; omega), List.getElem_cons, dif_neg (by omega)]
        congr 1
      · rw [dif_neg hr, dif_neg (by simp; omega)]

/-! ### Framebuffer -/

/-- A flip changes its own cell and no other. -/
@[simp] theorem Framebuffer.pixel_flip (fb : Framebuffer) (c c' : Fin 64) (r r' : Fin 32) :
    (fb.flip c r).pixel c' r' = (fb.pixel c' r' ^^ decide (c = c' ∧ r = r')) := by
  unfold Framebuffer.pixel Framebuffer.flip
  by_cases hc : c = c'
  · subst hc
    by_cases hr : r = r'
    · subst hr
      simp
    · have hn : r.val ≠ r'.val := fun e => hr (Fin.ext e)
      simp [hr, Vector.getElem_set_ne _ _ hn]
  · have hn : c.val ≠ c'.val := fun e => hc (Fin.ext e)
    simp [hc, Vector.getElem_set_ne _ _ hn]

@[simp] theorem Framebuffer.pixel_clear (c : Fin 64) (r : Fin 32) : Framebuffer.clear.pixel c r = false := by
  simp [Framebuffer.pixel, Framebuffer.clear]

/-- Two framebuffers that agree at every cell are one. -/
theorem Framebuffer.pixel_ext {f g : Framebuffer} (h : ∀ c r, f.pixel c r = g.pixel c r) : f = g := by
  apply Vector.ext
  intro i hi
  apply Vector.ext
  intro j hj
  exact h ⟨i, hi⟩ ⟨j, hj⟩

/-! ### Faults, execute and commit, the front of a step -/

/-- What running an instruction's pseudocode answers: the committed copy, or the fault (40_cycle.md R107). -/
theorem runInstr_cases (i : Instr) (body : State → Except FaultKind State) :
    (∃ t, body s.advance = .ok t ∧ runInstr i s body = .next t) ∨
      ∃ kind, body s.advance = .error kind ∧
        runInstr i s body = .next (s.takeFault kind (some (encode i))) := by
  unfold runInstr
  cases body s.advance with
  | ok t => exact .inl ⟨t, rfl, rfl⟩
  | error kind => exact .inr ⟨kind, rfl, rfl⟩

theorem runInstr_ok {i : Instr} {body : State → Except FaultKind State} {t : State}
    (h : body s.advance = .ok t) : runInstr i s body = .next t := by simp [runInstr, h]

theorem runInstr_error {i : Instr} {body : State → Except FaultKind State} {kind : FaultKind}
    (h : body s.advance = .error kind) : runInstr i s body = .next (s.takeFault kind (some (encode i))) := by
  simp [runInstr, h]

/-- The fetch: bounds, then alignment, then the word (40_cycle.md R102 to R104). -/
theorem State.fetch_eq :
    s.fetch =
      if s.pc.toNat > 0xFFE then .error .outOfBoundsFetch
      else if s.cfg.pcAlignCheck = true ∧ s.pc.toNat % 2 = 1 then .error .misalignedFetch
      else .ok (s.wordAt s.pc.toNat) := by
  unfold State.fetch
  split
  · rfl
  · simp

/-- A suspended or halted engine: the step changes nothing (40_cycle.md R101). -/
theorem State.frontEnd_idle (h : s.mode ≠ .running) : s.frontEnd = .done s := by
  unfold State.frontEnd
  cases hm : s.mode <;> simp_all

/-- What the front of a running step leaves to do. -/
theorem State.frontEnd_running (h : s.mode = .running) :
    (∃ kind, s.fetch = .error kind ∧ s.frontEnd = .done (s.takeFault kind none)) ∨
      (∃ w e, s.fetch = .ok w ∧ decode w = .error e ∧
        s.frontEnd = .done (s.takeFault .unrecognizedInstruction (some w))) ∨
      ∃ w i, s.fetch = .ok w ∧ decode w = .ok i ∧ s.frontEnd = .exec i := by
  unfold State.frontEnd
  rw [h]
  cases hf : s.fetch with
  | error kind => exact .inl ⟨kind, rfl, rfl⟩
  | ok w =>
    cases hd : decode w with
    | error e => exact .inr (.inl ⟨w, e, rfl, hd, by simp [hd]⟩)
    | ok i => exact .inr (.inr ⟨w, i, rfl, hd, by simp [hd]⟩)

/-! ### Host operations -/

/-- The latch write: the key holds the new value, the others are as before. -/
@[simp] theorem State.key_setKey (j k : Nibble) (p : Bool) :
    (s.setKey j p).key k = if k = j then p else s.key k := by
  unfold State.key State.setKey
  by_cases h : k = j
  · simp [h]
  · have hn : j.toNat ≠ k.toNat := fun e => h (BitVec.eq_of_toNat_eq e.symm)
    simp [h, Vector.getElem_set_ne _ _ hn]

/-- `set_key_state`: a latch write, and a resume exactly on a new key-down transition while suspended
(48_host_interface.md R273). -/
theorem State.setKeyState_cases (k : Nibble) (p : Bool) :
    (∃ t, s.mode = .suspended t ∧ p = true ∧ s.key k = false ∧ s.setKeyState k p = (s.setKey k p).resume t k) ∨
      ((∀ t, s.mode = .suspended t → ¬(p = true ∧ s.key k = false)) ∧ s.setKeyState k p = s.setKey k p) := by
  unfold State.setKeyState
  cases hm : s.mode with
  | running => exact .inr ⟨by simp, rfl⟩
  | halted r => exact .inr ⟨by simp, rfl⟩
  | suspended t =>
    by_cases h : p = true ∧ s.key k = false
    · exact .inl ⟨t, rfl, h.1, h.2, by simp [h]⟩
    · exact .inr ⟨fun t' _ => h, if_neg (by simpa using h)⟩

/-- `load` changes nothing for an image that does not fit, and else resets everything but the configuration and the count
of draws (48_host_interface.md R271, R272). -/
theorem State.load_cases (bytes : List Byte) :
    (bytes.length > 0xE00 ∧ s.load bytes = (s, .imageTooLarge)) ∨
      (bytes.length ≤ 0xE00 ∧
        s.load bytes = ({ (State.powerOn s.cfg).storeBytes 0x200 bytes with draws := s.draws }, .ok)) := by
  by_cases h : bytes.length > 0xE00
  · exact .inl ⟨h, by simp [State.load, loadBase, memSize]; omega⟩
  · refine .inr ⟨by omega, ?_⟩
    unfold State.load
    rw [if_neg (by simp [loadBase, memSize]; omega)]
    rfl

@[simp] theorem toNat_decay (v : Byte) (k : Nat) : (decay v k).toNat = v.toNat - k := by
  have := v.isLt
  simp only [decay, BitVec.toNat_ofNat]
  omega

/-- The whole ticks in a time that is not negative: the last multiple of 1/60 s not after it (60_exceptions.md R312). -/
theorem ticksIn_bounds {t : Rat} (ht : 0 ≤ t) :
    (ticksIn t : Rat) / 60 ≤ t ∧ t < ((ticksIn t : Rat) + 1) / 60 := by
  have h0 : 0 ≤ (t * 60).floor := by
    rw [Rat.le_floor_iff]
    push_cast
    positivity
  have e : (((t * 60).floor.toNat : Nat) : Rat) = ((t * 60).floor : Rat) := by
    exact_mod_cast congrArg (Int.cast (R := Rat)) (Int.toNat_of_nonneg h0)
  have h1 := Rat.floor_le (a := t * 60)
  have h2 := Rat.lt_floor_add_one (t * 60)
  push_cast at h2
  unfold ticksIn timerHz
  push_cast
  rw [e]
  constructor <;> linarith

/-- The whole ticks in a time are the one number whose tick has passed and whose next has not. -/
theorem ticksIn_unique {t : Rat} {k : Nat} (h1 : (k : Rat) / 60 ≤ t) (h2 : t < ((k : Rat) + 1) / 60) : ticksIn t = k := by
  obtain ⟨a, b⟩ := ticksIn_bounds (le_trans (by positivity) h1)
  have h3 : (ticksIn t : Rat) < k + 1 := by linarith
  have h4 : (k : Rat) < ticksIn t + 1 := by linarith
  have h3' : ticksIn t < k + 1 := by exact_mod_cast h3
  have h4' : k < ticksIn t + 1 := by exact_mod_cast h4
  omega

end Sys2Proof.Machine
end

