-- ==== Sys2Proof/Laws/Display.lean ====
section
/-! SUPPORT. Drawing: which cells a sprite flips, that it flips none twice, and what flipping them does to the framebuffer and
to the collision flag (41_display.md R121 to R125). -/

namespace Sys2Proof.Machine

/-- A flip of cells that are all different changes exactly those cells. -/
theorem pixel_drawCells (fb : Framebuffer) (cells : List (Fin 64 × Fin 32)) (h : cells.Nodup) (c : Fin 64) (r : Fin 32) :
    (drawCells fb cells).1.pixel c r = (fb.pixel c r ^^ decide ((c, r) ∈ cells)) := by
  induction cells generalizing fb with
  | nil => simp [drawCells]
  | cons p cells ih =>
    obtain ⟨a, b⟩ := p
    rw [List.nodup_cons] at h
    simp only [drawCells, ih _ h.2, Framebuffer.pixel_flip, List.mem_cons]
    by_cases e : (c, r) = (a, b)
    · cases e
      simp [h.1]
    · have hn : ¬(a = c ∧ b = r) := fun ⟨h1, h2⟩ => e (by rw [h1, h2])
      simp [hn, e]

/-- The flag of a flip of cells that are all different: whether one of them was lit before. -/
theorem hit_drawCells (fb : Framebuffer) (cells : List (Fin 64 × Fin 32)) (h : cells.Nodup) :
    (drawCells fb cells).2 = cells.any fun p => fb.pixel p.1 p.2 := by
  induction cells generalizing fb with
  | nil => rfl
  | cons p cells ih =>
    obtain ⟨a, b⟩ := p
    rw [List.nodup_cons] at h
    simp only [drawCells, ih _ h.2, List.any_cons, Framebuffer.pixel_flip]
    congr 1
    rw [Bool.eq_iff_iff, List.any_eq_true, List.any_eq_true]
    have key : ∀ q ∈ cells, ¬(a = q.1 ∧ b = q.2) := fun q hq ⟨h1, h2⟩ => h.1 (by rwa [h1, h2])
    constructor <;> rintro ⟨q, hq, hp⟩ <;> exact ⟨q, hq, by simpa [key q hq] using hp⟩

/-- Where a pixel lands, in either edge mode, determines its column and row up to the screen's size. -/
theorem placePixel_mod {m : EdgeMode} {c r : Nat} {p : Fin 64 × Fin 32} (h : placePixel m c r = some p) :
    c % 64 = p.1.val ∧ r % 32 = p.2.val := by
  cases m with
  | wrap =>
    cases h
    exact ⟨rfl, rfl⟩
  | clip =>
    simp only [placePixel] at h
    split at h
    · next hb =>
      cases h
      exact ⟨Nat.mod_eq_of_lt hb.1, Nat.mod_eq_of_lt hb.2⟩
    · cases h

/-- The cells of one row: those where a bit of 1 lands. -/
theorem mem_rowCells {m : EdgeMode} {c0 r : Nat} {row : Byte} {p : Fin 64 × Fin 32} :
    p ∈ rowCells m c0 r row ↔ ∃ b, b < 8 ∧ row.getLsbD (7 - b) = true ∧ placePixel m (c0 + b) r = some p := by
  unfold rowCells
  rw [List.mem_filterMap]
  constructor
  · rintro ⟨b, hb, hp⟩
    by_cases h : row.getLsbD (7 - b) = true
    · rw [if_pos h] at hp
      refine ⟨b, ?_, h, hp⟩
      revert hb
      simp
      omega
    · rw [if_neg h] at hp
      cases hp
  · rintro ⟨b, hb, h, hp⟩
    refine ⟨b, ?_, by rw [if_pos h, hp]⟩
    interval_cases b <;> simp

/-- The cells of a sprite: those where a bit of 1 of some row lands. -/
theorem mem_spriteCells {m : EdgeMode} {c0 r0 : Nat} {rows : List Byte} {p : Fin 64 × Fin 32} :
    p ∈ spriteCells m c0 r0 rows ↔
      ∃ j, ∃ h : j < rows.length, ∃ b, b < 8 ∧ rows[j].getLsbD (7 - b) = true ∧
        placePixel m (c0 + b) (r0 + j) = some p := by
  induction rows generalizing r0 with
  | nil => simp [spriteCells]
  | cons row rows ih =>
    rw [spriteCells, List.mem_append, mem_rowCells, ih]
    constructor
    · rintro (⟨b, hb, h, hp⟩ | ⟨j, hj, b, hb, h, hp⟩)
      · exact ⟨0, by simp, b, hb, h, hp⟩
      · exact ⟨j + 1, by simpa using hj, b, hb, by simpa using h, by rw [← hp]; congr 1; omega⟩
    · rintro ⟨j, hj, b, hb, h, hp⟩
      cases j with
      | zero => exact .inl ⟨b, hb, h, hp⟩
      | succ j =>
        exact .inr ⟨j, by simpa using hj, b, hb, by simpa using h, by rw [← hp]; congr 1; omega⟩

/-- No two pixels of one row land on the same cell (41_display.md R124). -/
theorem nodup_rowCells (m : EdgeMode) (c0 r : Nat) (row : Byte) : (rowCells m c0 r row).Nodup := by
  have hl : ([0, 1, 2, 3, 4, 5, 6, 7] : List Nat).Pairwise (· ≠ ·) := by decide
  unfold rowCells
  rw [List.Nodup, List.pairwise_filterMap]
  refine hl.imp_of_mem ?_
  intro b b' hb hb' hne p hp q hq e
  subst e
  have h8 : ∀ n ∈ ([0, 1, 2, 3, 4, 5, 6, 7] : List Nat), n < 8 := by decide
  have land : ∀ n, (if row.getLsbD (7 - n) then placePixel m (c0 + n) r else none) = some p →
      (c0 + n) % 64 = p.1.val := by
    intro n hn
    split at hn
    · exact (placePixel_mod hn).1
    · cases hn
  have h1 := land b hp
  have h2 := land b' hq
  have := h8 b hb
  have := h8 b' hb'
  omega

/-- No two pixels of one sprite land on the same cell (41_display.md R124). -/
theorem nodup_spriteCells (m : EdgeMode) (c0 r0 : Nat) (rows : List Byte) (h : rows.length ≤ 32) :
    (spriteCells m c0 r0 rows).Nodup := by
  induction rows generalizing r0 with
  | nil => exact List.nodup_nil
  | cons row rows ih =>
    simp only [List.length_cons] at h
    rw [spriteCells, List.nodup_append]
    refine ⟨nodup_rowCells _ _ _ _, ih _ (by omega), ?_⟩
    intro p hp q hq e
    subst e
    obtain ⟨_, _, _, hp⟩ := mem_rowCells.1 hp
    obtain ⟨j, hj, _, _, _, hq⟩ := mem_spriteCells.1 hq
    have h1 := (placePixel_mod hp).2
    have h2 := (placePixel_mod hq).2
    omega

end Sys2Proof.Machine
end

