-- ==== Sys2Proof/Laws/Encoding.lean ====
section
/-! SUPPORT. The encoding: byte order, field layouts, well-formedness of every instruction, and that no two rows of the
opcode map overlap (30_encoding.md R75). -/

namespace Sys2Proof

/-- The two bytes of a word, put together again, are the word. -/
@[simp] theorem wordOfBytes_high_low (w : Word) : wordOfBytes (highByte w) (lowByte w) = w := by
  ext k hk
  interval_cases k <;> simp [wordOfBytes, highByte, lowByte, BitVec.getLsbD_eq_getElem]

@[simp] theorem highByte_wordOfBytes (hi lo : Byte) : highByte (wordOfBytes hi lo) = hi := by
  ext k hk
  interval_cases k <;> simp [highByte, wordOfBytes]

@[simp] theorem lowByte_wordOfBytes (hi lo : Byte) : lowByte (wordOfBytes hi lo) = lo := by
  ext k hk
  interval_cases k <;> simp [lowByte, wordOfBytes]

/-- Every instruction is well-formed: the field types carry the widths. -/
theorem wf_of_instr (i : Instr) : i.wf = true := by
  have h4 (x : Nibble) : x.toNat < 2 ^ 4 := x.isLt
  have h8 (x : Byte) : x.toNat < 2 ^ 8 := x.isLt
  have h12 (x : Addr12) : x.toNat < 2 ^ 12 := x.isLt
  cases i <;>
    simp only [Instr.wf, Instr.operands, Operand.fits, Operand.nibble, Operand.byte, Operand.addr, List.all_cons,
      List.all_nil, h4, h8, h12, decide_true, Bool.and_self]

/-- No two rows overlap: some bit fixed in both differs (30_encoding.md R75). -/
theorem opcodeTable_disjoint :
    opcodeTable.Pairwise fun r q => r.mask &&& q.mask &&& (r.pattern ^^^ q.pattern) ≠ 0 := by
  decide +kernel

/-- The fixed bits of layout `A`. -/
theorem layoutA_fixed (op : Nibble) (nnn : Addr12) : layoutA op nnn &&& 0xF000#16 = op.setWidth 16 <<< 12 := by
  ext k hk
  interval_cases k <;> simp [layoutA]

/-- The fixed bits of layout `XNN`. -/
theorem layoutXNN_fixed (op x : Nibble) (nn : Byte) :
    layoutXNN op x nn &&& 0xF000#16 = op.setWidth 16 <<< 12 := by
  ext k hk
  interval_cases k <;> simp [layoutXNN]

/-- The fixed bits of layout `X`. -/
theorem layoutX_fixed (op x : Nibble) (nn : Byte) :
    layoutXNN op x nn &&& 0xF0FF#16 = op.setWidth 16 <<< 12 ||| nn.setWidth 16 := by
  ext k hk
  interval_cases k <;> simp [layoutXNN]

/-- The fixed bits of layout `XY`. -/
theorem layoutXY_fixed (op x y n : Nibble) :
    layoutXYN op x y n &&& 0xF00F#16 = op.setWidth 16 <<< 12 ||| n.setWidth 16 := by
  ext k hk
  interval_cases k <;> simp [layoutXYN]

/-- The fixed bits of layout `XYN`. -/
theorem layoutXYN_fixed (op x y n : Nibble) : layoutXYN op x y n &&& 0xF000#16 = op.setWidth 16 <<< 12 := by
  ext k hk
  interval_cases k <;> simp [layoutXYN]

/-! ### The fields of a laid-out word -/

@[simp] theorem fieldOp_layoutA (op : Nibble) (nnn : Addr12) : fieldOp (layoutA op nnn) = op := by
  ext k hk
  interval_cases k <;> simp [fieldOp, layoutA]

@[simp] theorem fieldNNN_layoutA (op : Nibble) (nnn : Addr12) : fieldNNN (layoutA op nnn) = nnn := by
  ext k hk
  interval_cases k <;> simp [fieldNNN, layoutA]

@[simp] theorem fieldOp_layoutXNN (op x : Nibble) (nn : Byte) : fieldOp (layoutXNN op x nn) = op := by
  ext k hk
  interval_cases k <;> simp [fieldOp, layoutXNN]

@[simp] theorem fieldX_layoutXNN (op x : Nibble) (nn : Byte) : fieldX (layoutXNN op x nn) = x := by
  ext k hk
  interval_cases k <;> simp [fieldX, layoutXNN]

@[simp] theorem fieldNN_layoutXNN (op x : Nibble) (nn : Byte) : fieldNN (layoutXNN op x nn) = nn := by
  ext k hk
  interval_cases k <;> simp [fieldNN, layoutXNN]

@[simp] theorem fieldOp_layoutXYN (op x y n : Nibble) : fieldOp (layoutXYN op x y n) = op := by
  ext k hk
  interval_cases k <;> simp [fieldOp, layoutXYN]

@[simp] theorem fieldX_layoutXYN (op x y n : Nibble) : fieldX (layoutXYN op x y n) = x := by
  ext k hk
  interval_cases k <;> simp [fieldX, layoutXYN]

@[simp] theorem fieldY_layoutXYN (op x y n : Nibble) : fieldY (layoutXYN op x y n) = y := by
  ext k hk
  interval_cases k <;> simp [fieldY, layoutXYN]

@[simp] theorem fieldN_layoutXYN (op x y n : Nibble) : fieldN (layoutXYN op x y n) = n := by
  ext k hk
  interval_cases k <;> simp [fieldN, layoutXYN]

/-! ### A word from its fields -/

/-- A word is its layout `A`. -/
theorem layoutA_fields (w : Word) : layoutA (fieldOp w) (fieldNNN w) = w := by
  ext k hk
  interval_cases k <;> simp [layoutA, fieldOp, fieldNNN, BitVec.getLsbD_eq_getElem]

/-- A word is its layout `XNN`. -/
theorem layoutXNN_fields (w : Word) : layoutXNN (fieldOp w) (fieldX w) (fieldNN w) = w := by
  ext k hk
  interval_cases k <;> simp [layoutXNN, fieldOp, fieldX, fieldNN, BitVec.getLsbD_eq_getElem]

/-- A word is its layout `XYN`. -/
theorem layoutXYN_fields (w : Word) : layoutXYN (fieldOp w) (fieldX w) (fieldY w) (fieldN w) = w := by
  ext k hk
  interval_cases k <;> simp [layoutXYN, fieldOp, fieldX, fieldY, fieldN, BitVec.getLsbD_eq_getElem]

end Sys2Proof
end

