-- ==== Sys2Proof/Laws/Exec.lean ====
section
/-! SUPPORT. What `exec` and `step` can do, said once: every instruction runs in the execute-and-commit frame, so it commits
its effect or takes a fault, and a step always answers a next state (log 1). -/

namespace Sys2Proof.Machine

/-- Every instruction's meaning is the execute-and-commit frame around its own pseudocode. -/
theorem exec_is_runInstr (i : Instr) : ∃ body, ∀ s, exec i s = runInstr i s body := by
  cases i <;>
    (simp only [exec, execCls, execRet, execJp, execCall, execSeImm, execSneImm, execSeReg, execLdImm, execAddImm, execLdReg,
      execOr, execAnd, execXor, execAddReg, execSub, execShr, execSubn, execShl, execSneReg, execLdI, execJpV0,
      execRnd, execDrw, execSkp, execSknp, execLdVxDt, execLdVxK, execLdDt, execLdSt, execAddI, execLdF,
      execLdB, execLdMemVx, execLdVxMem]
     exact ⟨_, fun _ => rfl⟩)

/-- An instruction answers a next state, from every state. -/
theorem exec_answers_next (i : Instr) (s : State) : ∃ t, exec i s = .next t := by
  obtain ⟨body, h⟩ := exec_is_runInstr i
  rcases runInstr_cases s i body with ⟨t, _, ht⟩ | ⟨kind, _, ht⟩ <;> exact ⟨_, (h s).trans ht⟩

/-- What a step does: nothing when the engine is not running; a fault of fetch or decode; or the decoded instruction. -/
theorem step_cases (s : State) :
    (s.mode ≠ .running ∧ step s = .next s) ∨
      (s.mode = .running ∧ ∃ kind, s.fetch = .error kind ∧ step s = .next (s.takeFault kind none)) ∨
      (s.mode = .running ∧ ∃ w e, s.fetch = .ok w ∧ decode w = .error e ∧
        step s = .next (s.takeFault .unrecognizedInstruction (some w))) ∨
      (s.mode = .running ∧ ∃ w i, s.fetch = .ok w ∧ decode w = .ok i ∧ step s = exec i s) := by
  by_cases hm : s.mode = .running
  · rcases s.frontEnd_running hm with ⟨k, h1, h2⟩ | ⟨w, e, h1, h2, h3⟩ | ⟨w, i, h1, h2, h3⟩
    · exact .inr (.inl ⟨hm, k, h1, by simp [step, h2]⟩)
    · exact .inr (.inr (.inl ⟨hm, w, e, h1, h2, by simp [step, h3]⟩))
    · exact .inr (.inr (.inr ⟨hm, w, i, h1, h2, by simp [step, h3]⟩))
  · exact .inl ⟨hm, by simp [step, s.frontEnd_idle hm]⟩

/-- A fetch that answers: the pc is inside memory, even where that is checked, and the word is the one there. -/
theorem State.fetch_ok {s : State} {w : Word} (h : s.fetch = .ok w) :
    s.pc.toNat ≤ 0xFFE ∧ (s.cfg.pcAlignCheck = true → s.pc.toNat % 2 = 0) ∧ w = s.wordAt s.pc.toNat := by
  rw [State.fetch_eq] at h
  split at h
  · cases h
  · split at h
    · cases h
    · next h1 h2 =>
      refine ⟨by omega, fun hp => ?_, by cases h; rfl⟩
      by_contra ho
      exact h2 ⟨hp, by omega⟩

/-- A placed word is what the next step fetches, from every state (log 8). -/
theorem State.fetch_placeWord (s : State) (nbits w : Nat) :
    (s.placeWord nbits w).fetch = .ok (BitVec.ofNat 16 (w % 2 ^ nbits)) ∧
      (s.placeWord nbits w).mode = .running := by
  have key : ∀ (t : State) (v : Word), t.pc.toNat ≤ 0xFFE →
      ¬(t.cfg.pcAlignCheck = true ∧ t.pc.toNat % 2 = 1) →
      (t.storeBytes t.pc.toNat [highByte v, lowByte v]).fetch = .ok v := by
    intro t v h1 h2
    rw [State.fetch_eq, if_neg (by simp; omega), if_neg (by simpa using h2)]
    simp [State.wordAt, State.readByte_storeBytes]
  unfold State.placeWord State.readyToFetch
  cases hf : s.fetch with
  | ok v =>
    obtain ⟨h1, h2, _⟩ := State.fetch_ok hf
    exact ⟨key _ _ h1 fun h => by have := h2 h.1; simp at h; omega, rfl⟩
  | error kind => exact ⟨key _ _ (by simp [loadBase]) (by simp [loadBase]), rfl⟩

end Sys2Proof.Machine
end

