-- ==== Sys2Proof/Laws/PerInstr.lean ====
section
/-! SUPPORT. Statements made per instruction. The family `OpcodeRow`: an instruction's word matches the row of the opcode
map that bears its name (30_encoding.md R73, R75). -/

namespace Sys2Proof.Laws

/-- The word of `i` matches, in every fixed bit, the row of the opcode map with the name of `i`. -/
def OpcodeRow.Statement (i : Instr) : Prop :=
  ∃ r ∈ opcodeTable, r.name = mnemonic i ∧ r.recognizes (encode i) = true

theorem OpcodeRow.cls : Statement .cls :=
  ⟨⟨"CLS", 0x00E0, 0xFFFF⟩, by decide, rfl, by decide⟩

theorem OpcodeRow.ret : Statement .ret :=
  ⟨⟨"RET", 0x00EE, 0xFFFF⟩, by decide, rfl, by decide⟩

theorem OpcodeRow.jp (nnn : Addr12) : Statement (.jp nnn) :=
  ⟨⟨"JP", 0x1000, 0xF000⟩, by decide, rfl, by simp [OpRow.recognizes, encode, layoutA_fixed]⟩

theorem OpcodeRow.call (nnn : Addr12) : Statement (.call nnn) :=
  ⟨⟨"CALL", 0x2000, 0xF000⟩, by decide, rfl, by simp [OpRow.recognizes, encode, layoutA_fixed]⟩

theorem OpcodeRow.seImm (x : Nibble) (nn : Byte) : Statement (.seImm x nn) :=
  ⟨⟨"SE_imm", 0x3000, 0xF000⟩, by decide, rfl, by simp [OpRow.recognizes, encode, layoutXNN_fixed]⟩

theorem OpcodeRow.sneImm (x : Nibble) (nn : Byte) : Statement (.sneImm x nn) :=
  ⟨⟨"SNE_imm", 0x4000, 0xF000⟩, by decide, rfl, by simp [OpRow.recognizes, encode, layoutXNN_fixed]⟩

theorem OpcodeRow.seReg (x y : Nibble) : Statement (.seReg x y) :=
  ⟨⟨"SE_reg", 0x5000, 0xF00F⟩, by decide, rfl, by simp [OpRow.recognizes, encode, layoutXY_fixed]⟩

theorem OpcodeRow.ldImm (x : Nibble) (nn : Byte) : Statement (.ldImm x nn) :=
  ⟨⟨"LD_imm", 0x6000, 0xF000⟩, by decide, rfl, by simp [OpRow.recognizes, encode, layoutXNN_fixed]⟩

theorem OpcodeRow.addImm (x : Nibble) (nn : Byte) : Statement (.addImm x nn) :=
  ⟨⟨"ADD_imm", 0x7000, 0xF000⟩, by decide, rfl, by simp [OpRow.recognizes, encode, layoutXNN_fixed]⟩

theorem OpcodeRow.ldReg (x y : Nibble) : Statement (.ldReg x y) :=
  ⟨⟨"LD_reg", 0x8000, 0xF00F⟩, by decide, rfl, by simp [OpRow.recognizes, encode, layoutXY_fixed]⟩

theorem OpcodeRow.or (x y : Nibble) : Statement (.or x y) :=
  ⟨⟨"OR", 0x8001, 0xF00F⟩, by decide, rfl, by simp [OpRow.recognizes, encode, layoutXY_fixed]⟩

theorem OpcodeRow.and (x y : Nibble) : Statement (.and x y) :=
  ⟨⟨"AND", 0x8002, 0xF00F⟩, by decide, rfl, by simp [OpRow.recognizes, encode, layoutXY_fixed]⟩

theorem OpcodeRow.xor (x y : Nibble) : Statement (.xor x y) :=
  ⟨⟨"XOR", 0x8003, 0xF00F⟩, by decide, rfl, by simp [OpRow.recognizes, encode, layoutXY_fixed]⟩

theorem OpcodeRow.addReg (x y : Nibble) : Statement (.addReg x y) :=
  ⟨⟨"ADD_reg", 0x8004, 0xF00F⟩, by decide, rfl, by simp [OpRow.recognizes, encode, layoutXY_fixed]⟩

theorem OpcodeRow.sub (x y : Nibble) : Statement (.sub x y) :=
  ⟨⟨"SUB", 0x8005, 0xF00F⟩, by decide, rfl, by simp [OpRow.recognizes, encode, layoutXY_fixed]⟩

theorem OpcodeRow.shr (x y : Nibble) : Statement (.shr x y) :=
  ⟨⟨"SHR", 0x8006, 0xF00F⟩, by decide, rfl, by simp [OpRow.recognizes, encode, layoutXY_fixed]⟩

theorem OpcodeRow.subn (x y : Nibble) : Statement (.subn x y) :=
  ⟨⟨"SUBN", 0x8007, 0xF00F⟩, by decide, rfl, by simp [OpRow.recognizes, encode, layoutXY_fixed]⟩

theorem OpcodeRow.shl (x y : Nibble) : Statement (.shl x y) :=
  ⟨⟨"SHL", 0x800E, 0xF00F⟩, by decide, rfl, by simp [OpRow.recognizes, encode, layoutXY_fixed]⟩

theorem OpcodeRow.sneReg (x y : Nibble) : Statement (.sneReg x y) :=
  ⟨⟨"SNE_reg", 0x9000, 0xF00F⟩, by decide, rfl, by simp [OpRow.recognizes, encode, layoutXY_fixed]⟩

theorem OpcodeRow.ldI (nnn : Addr12) : Statement (.ldI nnn) :=
  ⟨⟨"LD_I", 0xA000, 0xF000⟩, by decide, rfl, by simp [OpRow.recognizes, encode, layoutA_fixed]⟩

theorem OpcodeRow.jpV0 (nnn : Addr12) : Statement (.jpV0 nnn) :=
  ⟨⟨"JP_V0", 0xB000, 0xF000⟩, by decide, rfl, by simp [OpRow.recognizes, encode, layoutA_fixed]⟩

theorem OpcodeRow.rnd (x : Nibble) (nn : Byte) : Statement (.rnd x nn) :=
  ⟨⟨"RND", 0xC000, 0xF000⟩, by decide, rfl, by simp [OpRow.recognizes, encode, layoutXNN_fixed]⟩

theorem OpcodeRow.drw (x y n : Nibble) : Statement (.drw x y n) :=
  ⟨⟨"DRW", 0xD000, 0xF000⟩, by decide, rfl, by simp [OpRow.recognizes, encode, layoutXYN_fixed]⟩

theorem OpcodeRow.skp (x : Nibble) : Statement (.skp x) :=
  ⟨⟨"SKP", 0xE09E, 0xF0FF⟩, by decide, rfl, by simp [OpRow.recognizes, encode, layoutX_fixed]⟩

theorem OpcodeRow.sknp (x : Nibble) : Statement (.sknp x) :=
  ⟨⟨"SKNP", 0xE0A1, 0xF0FF⟩, by decide, rfl, by simp [OpRow.recognizes, encode, layoutX_fixed]⟩

theorem OpcodeRow.ldVxDt (x : Nibble) : Statement (.ldVxDt x) :=
  ⟨⟨"LD_Vx_DT", 0xF007, 0xF0FF⟩, by decide, rfl, by simp [OpRow.recognizes, encode, layoutX_fixed]⟩

theorem OpcodeRow.ldVxK (x : Nibble) : Statement (.ldVxK x) :=
  ⟨⟨"LD_Vx_K", 0xF00A, 0xF0FF⟩, by decide, rfl, by simp [OpRow.recognizes, encode, layoutX_fixed]⟩

theorem OpcodeRow.ldDt (x : Nibble) : Statement (.ldDt x) :=
  ⟨⟨"LD_DT", 0xF015, 0xF0FF⟩, by decide, rfl, by simp [OpRow.recognizes, encode, layoutX_fixed]⟩

theorem OpcodeRow.ldSt (x : Nibble) : Statement (.ldSt x) :=
  ⟨⟨"LD_ST", 0xF018, 0xF0FF⟩, by decide, rfl, by simp [OpRow.recognizes, encode, layoutX_fixed]⟩

theorem OpcodeRow.addI (x : Nibble) : Statement (.addI x) :=
  ⟨⟨"ADD_I", 0xF01E, 0xF0FF⟩, by decide, rfl, by simp [OpRow.recognizes, encode, layoutX_fixed]⟩

theorem OpcodeRow.ldF (x : Nibble) : Statement (.ldF x) :=
  ⟨⟨"LD_F", 0xF029, 0xF0FF⟩, by decide, rfl, by simp [OpRow.recognizes, encode, layoutX_fixed]⟩

theorem OpcodeRow.ldB (x : Nibble) : Statement (.ldB x) :=
  ⟨⟨"LD_B", 0xF033, 0xF0FF⟩, by decide, rfl, by simp [OpRow.recognizes, encode, layoutX_fixed]⟩

theorem OpcodeRow.ldMemVx (x : Nibble) : Statement (.ldMemVx x) :=
  ⟨⟨"LD_mem_Vx", 0xF055, 0xF0FF⟩, by decide, rfl, by simp [OpRow.recognizes, encode, layoutX_fixed]⟩

theorem OpcodeRow.ldVxMem (x : Nibble) : Statement (.ldVxMem x) :=
  ⟨⟨"LD_Vx_mem", 0xF065, 0xF0FF⟩, by decide, rfl, by simp [OpRow.recognizes, encode, layoutX_fixed]⟩

end Sys2Proof.Laws
end

