-- ==== Sys2Proof/Laws/Runs.lean ====
section
/-! SUPPORT. Sequences of the host's calls: what one call leaves, and what it takes to supply a key-down transition. -/

namespace Sys2Proof.Machine

variable (s : State)

@[simp] theorem State.afterCalls_nil : s.afterCalls [] = s := rfl
@[simp] theorem State.afterCalls_cons (op : HostOp) (ops : List HostOp) :
    s.afterCalls (op :: ops) = (s.afterCall op).afterCalls ops := rfl
@[simp] theorem State.afterCalls_append (ops ops' : List HostOp) :
    s.afterCalls (ops ++ ops') = (s.afterCalls ops).afterCalls ops' := List.foldl_append

@[simp] theorem State.suppliesKeyDown_nil : s.suppliesKeyDown [] = false := rfl
@[simp] theorem State.suppliesKeyDown_cons (op : HostOp) (ops : List HostOp) :
    s.suppliesKeyDown (op :: ops) = (s.keyDown op || (s.afterCall op).suppliesKeyDown ops) := rfl

/-- A call that answers leaves the state it answers. -/
theorem State.afterCall_of_next {s t : State} {op : HostOp} {r : HostReply} (h : perform op s = .next (t, r)) :
    s.afterCall op = t := by simp [State.afterCall, h]

/-- A call leaves the state it answers, or is refused and leaves the state as it is. -/
theorem State.afterCall_cases (op : HostOp) :
    (∃ t r, perform op s = .next (t, r) ∧ s.afterCall op = t) ∨
      ((∀ t r, perform op s ≠ .next (t, r)) ∧ s.afterCall op = s) := by
  unfold State.afterCall
  cases h : perform op s with
  | next p => exact .inl ⟨p.1, p.2, rfl, rfl⟩
  | fault f => exact .inr ⟨by simp, rfl⟩
  | refused f => exact .inr ⟨by simp, rfl⟩

/-- A call is a key-down transition exactly when it presses a key that is up (46_timers_input.md R254). -/
theorem State.keyDown_eq_true {op : HostOp} :
    s.keyDown op = true ↔ ∃ k : Nibble, op = .setKeyState k.toNat true ∧ s.key k = false := by
  constructor
  · intro h
    cases op with
    | setKeyState k p =>
      simp only [State.keyDown, Bool.and_eq_true, decide_eq_true_eq, Bool.not_eq_true'] at h
      obtain ⟨⟨hk, rfl⟩, hu⟩ := h
      exact ⟨BitVec.ofNat 4 k, by rw [BitVec.toNat_ofNat, Nat.mod_eq_of_lt hk], hu⟩
    | _ => cases h
  · rintro ⟨k, rfl, hu⟩
    simp [State.keyDown, hu, k.isLt]

end Sys2Proof.Machine
end

