-- ==== Sys2Proof/Tests/Slice0.lean ====
section
/-! SUPPORT. Tests. Expected values are those of spec/95_test_vectors.md (the vector's name stands in the comment) or of the
examples ending the spec's rules, never the model's own answers. Then the witnesses: for each statement with hypotheses, a
state and operands that meet them. -/

namespace Sys2Proof.Tests
open Sys2Proof Sys2Proof.Machine

-- One theorem at a time: many kernel evaluations at once would each take a thread.
set_option Elab.async false

/-! ### Helpers -/

/-- The reset state with the word `w` where the next step fetches it. -/
def start (w : Nat) : State := State.reset.withFetchWord 16 w

/-- A state with some registers set. -/
def regs (s : State) (l : List (Nibble × Byte)) : State := l.foldl (fun t p => t.setReg p.1 p.2) s

/-- A state with some bytes stored. -/
def bytes (s : State) (a : Nat) (l : List Byte) : State := s.storeBytes a l

/-- A state with some pixels flipped. -/
def lit (s : State) (l : List (Fin 64 × Fin 32)) : State :=
  { s with fb := l.foldl (fun f p => f.flip p.1 p.2) s.fb }

/-- The lit pixels, column by column. -/
def litPixels (s : State) : List (Nat × Nat) :=
  ((List.finRange 64).flatMap fun c => ((List.finRange 32).filter fun r => s.fb.pixel c r).map fun r => (c.val, r.val))

/-- A view of the state one step leaves. -/
def after {α : Type} (s : State) (f : State → α) : Option α :=
  match step s with
  | .next t => some (f t)
  | _ => none

/-- A view of the state a host operation leaves, and its answer. -/
def afterOp {α : Type} (op : HostOp) (s : State) (f : State → α) : Option (α × HostReply) :=
  match perform op s with
  | .next (t, r) => some (f t, r)
  | _ => none

/-- The pc and one register. -/
def pcAnd (x : Nibble) (t : State) : Word × Byte := (t.pc, t.reg x)

/-- One register and VF. -/
def regAndVF (x : Nibble) (t : State) : Byte × Byte := (t.reg x, t.reg 15)

/-! ### Well-formedness: terms the checks refuse -/

theorem test_wf_refuses_register_16 : (Operand.nibble 16).fits = false := by decide
theorem test_wf_refuses_immediate_256 : (Operand.byte 256).fits = false := by decide
theorem test_wf_refuses_address_0x1000 : (Operand.addr 0x1000).fits = false := by decide
theorem test_wf_accepts_widest : (Operand.nibble 15).fits && (Operand.byte 255).fits && (Operand.addr 0xFFF).fits := by
  decide
theorem test_wf_accepts_instr : (Instr.drw 0xF 0xF 0xF).wf = true := by decide
theorem test_wf_refuses_glyphs_above_reserved : ¬ { defaultConfig with fontBase := 0x1B1 }.WellFormed := by decide
theorem test_wf_accepts_glyphs_at_end : { defaultConfig with fontBase := 0x1B0 }.WellFormed := by decide

/-! ### Decoding: one word per instruction, written bit by bit from 30_encoding.md R71 and R75 -/

theorem test_decode_cls : decode 0b0000000011100000 = .ok .cls := by decide
theorem test_decode_ret : decode 0b0000000011101110 = .ok .ret := by decide
theorem test_decode_jp : decode 0b0001101010111100 = .ok (.jp 0xABC) := by decide
theorem test_decode_call : decode 0b0010001100000100 = .ok (.call 0x304) := by decide
theorem test_decode_seImm : decode 0b0011010100101010 = .ok (.seImm 5 0x2A) := by decide
theorem test_decode_sneImm : decode 0b0100001100000001 = .ok (.sneImm 3 0x01) := by decide
theorem test_decode_seReg : decode 0b0101000100100000 = .ok (.seReg 1 2) := by decide
theorem test_decode_ldImm : decode 0b0110101001000010 = .ok (.ldImm 0xA 0x42) := by decide
theorem test_decode_addImm : decode 0b0111000011111111 = .ok (.addImm 0 0xFF) := by decide
theorem test_decode_ldReg : decode 0b1000000100100000 = .ok (.ldReg 1 2) := by decide
theorem test_decode_or : decode 0b1000000100100001 = .ok (.or 1 2) := by decide
theorem test_decode_and : decode 0b1000000100100010 = .ok (.and 1 2) := by decide
theorem test_decode_xor : decode 0b1000000100100011 = .ok (.xor 1 2) := by decide
theorem test_decode_addReg : decode 0b1000000100100100 = .ok (.addReg 1 2) := by decide
theorem test_decode_sub : decode 0b1000001101000101 = .ok (.sub 3 4) := by decide
theorem test_decode_shr : decode 0b1000001101000110 = .ok (.shr 3 4) := by decide
theorem test_decode_subn : decode 0b1000001101000111 = .ok (.subn 3 4) := by decide
theorem test_decode_shl : decode 0b1000111111111110 = .ok (.shl 0xF 0xF) := by decide
theorem test_decode_sneReg : decode 0b1001000100100000 = .ok (.sneReg 1 2) := by decide
theorem test_decode_ldI : decode 0b1010001100000000 = .ok (.ldI 0x300) := by decide
theorem test_decode_jpV0 : decode 0b1011111111111111 = .ok (.jpV0 0xFFF) := by decide
theorem test_decode_rnd : decode 0b1100001100001111 = .ok (.rnd 3 0x0F) := by decide
theorem test_decode_drw : decode 0b1101101111000101 = .ok (.drw 0xB 0xC 5) := by decide
theorem test_decode_skp : decode 0b1110111110011110 = .ok (.skp 0xF) := by decide
theorem test_decode_sknp : decode 0b1110011110100001 = .ok (.sknp 7) := by decide
theorem test_decode_ldVxDt : decode 0b1111001100000111 = .ok (.ldVxDt 3) := by decide
theorem test_decode_ldVxK : decode 0b1111000100001010 = .ok (.ldVxK 1) := by decide
theorem test_decode_ldDt : decode 0b1111010100010101 = .ok (.ldDt 5) := by decide
theorem test_decode_ldSt : decode 0b1111010100011000 = .ok (.ldSt 5) := by decide
theorem test_decode_addI : decode 0b1111000000011110 = .ok (.addI 0) := by decide
theorem test_decode_ldF : decode 0b1111101000101001 = .ok (.ldF 0xA) := by decide
theorem test_decode_ldB : decode 0b1111000000110011 = .ok (.ldB 0) := by decide
theorem test_decode_ldMemVx : decode 0b1111001001010101 = .ok (.ldMemVx 2) := by decide
theorem test_decode_ldVxMem : decode 0b1111111101100101 = .ok (.ldVxMem 0xF) := by decide

/-- The unrecognized words of section 2.1. -/
theorem test_decode_refuses :
    ([0x0000, 0x0123, 0x0FFF, 0x00E1, 0x00FE, 0x00FF, 0x5121, 0x512F, 0x8008, 0x8009, 0x800A, 0x800B, 0x800C, 0x800D,
      0x800F, 0x9001, 0x900F, 0xE000, 0xE09F, 0xE0A0, 0xE0FF, 0xF000, 0xF001, 0xF008, 0xF030, 0xF075, 0xF085,
      0xFFFF] : List Word).all (fun w => decode w == .error (.unrecognized w)) = true := by decide +kernel

/-- High byte first, and a lone byte is no instruction (30_encoding.md R70). -/
theorem test_decode_bytes : decodeBytes [0x6A, 0x42, 0x99] = .ok (.ldImm 0xA 0x42, [0x99]) := by decide
theorem test_decode_bytes_truncated : decodeBytes [0x6A] = .error .truncated := by decide

/-! ### Display -/

/-- D11 -/
theorem test_cls :
    after (lit (start 0x00E0) [(0, 0), (63, 31)]) (fun t => (t.pc, litPixels t)) = some (0x202, []) := by decide +kernel

/-- D2: a lit pixel is unset and reported. -/
theorem test_drw_collision :
    after (bytes { lit (start 0xD011) [(1, 0)] with I := 0x300 } 0x300 [0xC0])
      (fun t => (t.reg 15, litPixels t)) = some (1, [(0, 0)]) := by decide +kernel

/-- D3: the start wraps, the rest is clipped. -/
theorem test_drw_clip :
    after (bytes { regs (start 0xD011) [(0, 124), (1, 37)] with I := 0x300 } 0x300 [0x81])
      (fun t => (t.reg 15, litPixels t)) = some (0, [(60, 5)]) := by decide +kernel

/-- D4: the same under `wrap`. -/
theorem test_drw_wrap :
    after (bytes { regs (start 0xD011) [(0, 124), (1, 37)] with
        I := 0x300, cfg := { defaultConfig with edgeMode := .wrap } } 0x300 [0x81])
      (fun t => (t.reg 15, litPixels t)) = some (0, [(3, 5), (60, 5)]) := by decide +kernel

/-- D8: the second row is past 0xFFF. -/
theorem test_drw_out_of_bounds :
    after { regs (start 0xD012) [(15, 7)] with I := 0xFFF } (fun t => (t.mode, t.reg 15)) =
      some (.halted ⟨.outOfBoundsAccess, 0x200, some 0xD012⟩, 7) := by decide +kernel

/-! ### Control flow -/

/-- J9: the popped entry keeps its value. -/
theorem test_ret :
    after { start 0x00EE with sp := 2, stack := (Vector.replicate 16 0).set 1 0x402 }
      (fun t => (t.pc, t.sp, t.stack[1])) = some (0x402, 1, 0x402) := by decide +kernel

/-- J8 -/
theorem test_ret_underflow :
    after (start 0x00EE) (fun t => (t.pc, t.mode)) =
      some (0x200, .halted ⟨.stackUnderflow, 0x200, some 0x00EE⟩) := by decide +kernel

/-- J1 -/
theorem test_jp : after (start 0x1ABC) State.pc = some 0xABC := by decide +kernel

/-- J10: the sixteenth entry fits. -/
theorem test_call :
    after { start 0x2200 with sp := 15 } (fun t => (t.pc, t.sp, t.stack[15])) = some (0x200, 16, 0x202) := by
  decide +kernel

/-- J7 -/
theorem test_call_overflow :
    after { start 0x2300 with sp := 16 } (fun t => (t.pc, t.sp, t.mode)) =
      some (0x200, 16, .halted ⟨.stackOverflow, 0x200, some 0x2300⟩) := by decide +kernel

/-- J4: the sum is not masked. -/
theorem test_jpV0 : after (regs (start 0xBFFF) [(0, 0xFF)]) State.pc = some 0x10FE := by decide +kernel

/-! ### Skips -/

/-- S1, S2 -/
theorem test_seImm : after (regs (start 0x3005) [(0, 5)]) State.pc = some 0x204 := by decide +kernel
theorem test_seImm_not : after (regs (start 0x3006) [(0, 5)]) State.pc = some 0x202 := by decide +kernel
/-- S3, S4 -/
theorem test_sneImm_not : after (regs (start 0x4005) [(0, 5)]) State.pc = some 0x202 := by decide +kernel
theorem test_sneImm : after (regs (start 0x4006) [(0, 5)]) State.pc = some 0x204 := by decide +kernel
/-- S5, S6 -/
theorem test_seReg : after (regs (start 0x5120) [(1, 7), (2, 7)]) State.pc = some 0x204 := by decide +kernel
theorem test_seReg_not : after (regs (start 0x5120) [(1, 7), (2, 8)]) State.pc = some 0x202 := by decide +kernel
/-- S7, S8 -/
theorem test_sneReg : after (regs (start 0x9120) [(1, 7), (2, 8)]) State.pc = some 0x204 := by decide +kernel
theorem test_sneReg_not : after (regs (start 0x9120) [(1, 7), (2, 7)]) State.pc = some 0x202 := by decide +kernel
/-- S10, S14 -/
theorem test_skp : after ((regs (start 0xE09E) [(0, 4)]).setKey 4 true) State.pc = some 0x204 := by decide +kernel
theorem test_skp_range :
    after (regs (start 0xE09E) [(0, 0x10)]) State.mode = some (.halted ⟨.operandOutOfRange, 0x200, some 0xE09E⟩) := by
  decide +kernel
/-- S13, S12 -/
theorem test_sknp_held : after ((regs (start 0xE0A1) [(0, 4)]).setKey 4 true) State.pc = some 0x202 := by decide +kernel
theorem test_sknp : after (regs (start 0xE0A1) [(0, 4)]) State.pc = some 0x204 := by decide +kernel

/-! ### Arithmetic and logic -/

/-- A1, W1 with x = 15 -/
theorem test_ldImm : after (start 0x6A42) (pcAnd 0xA) = some (0x202, 0x42) := by decide +kernel
theorem test_ldImm_vf : after (regs (start 0x6FFF) [(15, 1)]) (pcAnd 15) = some (0x202, 0xFF) := by decide +kernel
/-- A2, A3 -/
theorem test_addImm : after (regs (start 0x7001) [(0, 0xFF), (15, 5)]) (regAndVF 0) = some (0, 5) := by decide +kernel
theorem test_addImm_vf : after (regs (start 0x7FFF) [(15, 2)]) (pcAnd 15) = some (0x202, 1) := by decide +kernel
/-- A4 -/
theorem test_ldReg : after (regs (start 0x8120) [(2, 0xAB), (15, 3)]) (regAndVF 1) = some (0xAB, 3) := by decide +kernel
/-- A5 -/
theorem test_or :
    after (regs (start 0x8121) [(1, 0x0F), (2, 0xF0), (15, 9)]) (regAndVF 1) = some (0xFF, 9) := by decide +kernel
/-- A6 -/
theorem test_and :
    after (regs (start 0x8122) [(1, 0x3C), (2, 0x0F), (15, 9)]) (regAndVF 1) = some (0x0C, 9) := by decide +kernel
/-- A7 -/
theorem test_xor :
    after (regs (start 0x8123) [(1, 0xFF), (2, 0x0F), (15, 9)]) (regAndVF 1) = some (0xF0, 9) := by decide +kernel
/-- W2: the carry, and the flag written last when x = 15. -/
theorem test_addReg : after (regs (start 0x8014) [(0, 0xFF), (1, 1)]) (regAndVF 0) = some (0, 1) := by decide +kernel
theorem test_addReg_vf : after (regs (start 0x8F14) [(15, 0x10), (1, 0x20)]) (pcAnd 15) = some (0x202, 0) := by
  decide +kernel
/-- W3: equal counts as no borrow; a borrow wraps. -/
theorem test_sub_equal : after (regs (start 0x8015) [(0, 5), (1, 5)]) (regAndVF 0) = some (0, 1) := by decide +kernel
theorem test_sub_borrow : after (regs (start 0x8015) [(0, 3), (1, 5)]) (regAndVF 0) = some (0xFE, 0) := by
  decide +kernel
/-- A11, A13 -/
theorem test_shr : after (regs (start 0x8346) [(3, 0x81), (4, 0xFF)]) (regAndVF 3) = some (0x40, 1) := by decide +kernel
theorem test_shr_vf : after (regs (start 0x8F06) [(15, 3)]) (pcAnd 15) = some (0x202, 1) := by decide +kernel
/-- A15, A16 -/
theorem test_subn_borrow : after (regs (start 0x8237) [(2, 5), (3, 3)]) (regAndVF 2) = some (0xFE, 0) := by
  decide +kernel
theorem test_subn : after (regs (start 0x8327) [(2, 5), (3, 3)]) (regAndVF 3) = some (2, 1) := by decide +kernel
/-- A18, A20 -/
theorem test_shl : after (regs (start 0x830E) [(3, 0x81)]) (regAndVF 3) = some (2, 1) := by decide +kernel
theorem test_shl_vf : after (regs (start 0x8F0E) [(15, 0x40)]) (pcAnd 15) = some (0x202, 0) := by decide +kernel

/-- A22: with `nn = 0` the result is 0 for every draw. A23: with `nn = 0xFF` it is the draw. -/
theorem test_rnd_masked : ∃ t, exec (.rnd 3 0) State.reset = .next t ∧ t.reg 3 = 0 := by
  refine ⟨State.reset.advance.draw.2.setReg 3 (State.reset.advance.draw.1 &&& 0), rfl, ?_⟩
  simp
theorem test_rnd_whole : ∃ t, exec (.rnd 15 0xFF) State.reset = .next t ∧ t.reg 15 = Config.rand8 0 := by
  refine ⟨State.reset.advance.draw.2.setReg 15 (State.reset.advance.draw.1 &&& 0xFF), rfl, ?_⟩
  have h : State.reset.advance.draw.1 = Config.rand8 0 := rfl
  rw [State.reg_setReg, if_pos rfl, h]
  exact BitVec.and_allOnes

/-! ### Index register and memory -/

/-- M1 -/
theorem test_ldI : after (start 0xA123) (fun t => (t.pc, t.I)) = some (0x202, 0x123) := by decide +kernel
/-- M3, M4: no mask, no flag, then the 16-bit wrap. -/
theorem test_addI : after { regs (start 0xF01E) [(0, 1)] with I := 0xFFF } (fun t => (t.I, t.reg 15)) = some (0x1000, 0) := by
  decide +kernel
theorem test_addI_wraps : after { regs (start 0xF01E) [(0, 1)] with I := 0xFFFF } State.I = some 0 := by decide +kernel
/-- M6, M7 -/
theorem test_ldF : after (regs (start 0xF029) [(0, 0xF)]) State.I = some 0x09B := by decide +kernel
theorem test_ldF_range :
    after (regs (start 0xF029) [(0, 0x10)]) (fun t => (t.I, t.mode)) =
      some (0, .halted ⟨.operandOutOfRange, 0x200, some 0xF029⟩) := by decide +kernel
/-- M9, M13 -/
theorem test_ldB :
    after { regs (start 0xF033) [(0, 254)] with I := 0x300 }
      (fun t => (t.readByte 0x300, t.readByte 0x301, t.readByte 0x302)) = some (2, 5, 4) := by decide +kernel
theorem test_ldB_reserved :
    after { regs (start 0xF033) [(0, 1)] with I := 0x1FF } (fun t => (t.readByte 0x201, t.mode)) =
      some (0x33, .halted ⟨.reservedWrite, 0x200, some 0xF033⟩) := by decide +kernel
/-- M17, M18 -/
theorem test_ldMemVx :
    after { regs (start 0xFF55) [(0, 7), (14, 14), (15, 15)] with I := 0xFF0 }
      (fun t => (t.readByte 0xFF0, t.readByte 0xFFE, t.readByte 0xFFF, t.I)) = some (7, 14, 15, 0xFF0) := by decide +kernel
theorem test_ldMemVx_out_of_bounds :
    after { start 0xFF55 with I := 0xFF1 } State.mode = some (.halted ⟨.outOfBoundsAccess, 0x200, some 0xFF55⟩) := by
  decide +kernel
/-- M19, M20 -/
theorem test_ldVxMem_glyph :
    after { regs (start 0xF265) [(3, 9)] with I := 0x050 } (fun t => (t.reg 0, t.reg 1, t.reg 2, t.reg 3)) =
      some (0xF0, 0x90, 0x90, 9) := by decide +kernel
theorem test_ldVxMem_out_of_bounds :
    after { start 0xFF65 with I := 0xFF1 } State.mode = some (.halted ⟨.outOfBoundsAccess, 0x200, some 0xFF65⟩) := by
  decide +kernel

/-! ### Timers and input -/

/-- T1 -/
theorem test_ldVxDt : after { start 0xF307 with DT := 0x33 } (pcAnd 3) = some (0x202, 0x33) := by decide +kernel
/-- T2 -/
theorem test_ldDt :
    after { regs (start 0xF515) [(5, 0x20)] with acc := 1 / 100 } (fun t => (t.DT, t.acc)) = some (0x20, 1 / 100) := by
  decide +kernel
/-- T3, T4 -/
theorem test_ldSt : after (regs (start 0xF518) [(5, 0x20)]) (fun t => (t.ST, t.soundActive)) = some (0x20, true) := by
  decide +kernel
theorem test_ldSt_silent : after { start 0xF518 with ST := 9 } (fun t => (t.ST, t.soundActive)) = some (0, false) := by
  decide +kernel
/-- T10 and T12: a held key does not end the wait. -/
theorem test_ldVxK : after (start 0xF30A) (fun t => (t.pc, t.mode, t.reg 3)) = some (0x202, .suspended 3, 0) := by
  decide +kernel
theorem test_ldVxK_held :
    after ((start 0xF30A).setKey 5 true) (fun t => (t.setKeyState 5 true).mode) = some (.suspended 3) := by decide +kernel

/-! ### The step -/

/-- V2, V4, V6: the bounds check comes first. -/
theorem test_fetch_bounds :
    after { State.reset with pc := 0xFFF } State.mode = some (.halted ⟨.outOfBoundsFetch, 0xFFF, none⟩) := by decide +kernel
theorem test_fetch_odd :
    after { State.reset with pc := 0x201 } State.mode = some (.halted ⟨.misalignedFetch, 0x201, none⟩) := by decide +kernel
/-- V5 -/
theorem test_fetch_odd_unchecked :
    after (bytes { State.reset with pc := 0x201, cfg := { defaultConfig with pcAlignCheck := false } } 0x201 [0x60, 0x77])
      (pcAnd 0) = some (0x203, 0x77) := by decide +kernel
/-- V7 -/
theorem test_step_before_load :
    afterOp .step State.reset State.pc =
      some (0x200, .stepped (.fault ⟨.unrecognizedInstruction, 0x200, some 0x0000⟩)) := by decide +kernel

/-! ### Host operations -/

/-- T7: one tick, the rest stays. -/
theorem test_advanceTimers :
    afterOp (.advanceTimers (1 / 100)) { State.reset with DT := 3, ST := 1, acc := 1 / 100 }
      (fun t => (t.DT, t.ST, t.acc)) = some ((2, 0, 1 / 300), .done) := by decide +kernel
/-- T5: floored at 0. -/
theorem test_advanceTimers_floor :
    afterOp (.advanceTimers (1 / 10)) { State.reset with DT := 3 } (fun t => (t.DT, t.acc)) = some ((0, 0), .done) := by
  decide +kernel
/-- T11 -/
theorem test_setKeyState_resumes :
    afterOp (.setKeyState 5 true) { State.reset with mode := .suspended 3 } (fun t => (t.reg 3, t.key 5, t.mode)) =
      some ((5, true, .running), .done) := by decide +kernel
/-- T14: the lowest key resumes. -/
theorem test_poll_lowest :
    (fun t : State => (t.reg 3, t.key 9, t.mode))
      ({ State.reset with mode := .suspended 3 }.pollKeys (((Vector.replicate 16 false).set 2 true).set 9 true)) =
      (2, true, .running) := by decide +kernel
/-- H2 -/
theorem test_load_too_large :
    afterOp (.load (List.replicate 3585 0)) { State.reset with pc := 0x234 } State.pc =
      some (0x234, .loaded .imageTooLarge) := by decide +kernel
/-- H3 -/
theorem test_load_leaves_halted :
    afterOp (.load [0x12, 0x00]) { State.reset with mode := .halted ⟨.stackOverflow, 0x300, some 0x2300⟩, pc := 0x300 }
      (fun t => (t.mode, t.pc, t.readByte 0x200, t.readByte 0x201)) =
      some ((.running, 0x200, 0x12, 0x00), .loaded .ok) := by decide +kernel
/-- K14 -/
theorem test_setKeyState_refuses_16 : perform (.setKeyState 16 true) State.reset = .refused (.keyIndexOutOfRange 16) := rfl
/-- A negative time (log 9). -/
theorem test_advanceTimers_refuses_negative :
    perform (.advanceTimers (-1)) State.reset = .refused .negativeElapsed := by simp [perform]

/-! ### Witnesses: encoding -/

theorem witness_EncodeInvertsDecode : decode 0x8AB6 = .ok (.shr 0xA 0xB) := by decide
theorem witness_DecodeFollowsOpcodeMap_ok : decode 0xFF65 = .ok (.ldVxMem 0xF) := by decide
theorem witness_DecodeFollowsOpcodeMap_error : decode 0xFFFF = .error (.unrecognized 0xFFFF) := by decide
/-- A boundary word of each class of R73 is refused, and its neighbour decodes. -/
theorem witness_UnrecognizedWordClasses :
    ([(0x00E1, 0x00E0), (0x0FFF, 0x1000), (0x5FF1, 0x5FF0), (0x8008, 0x8007), (0x800F, 0x800E), (0x9001, 0x9000),
      (0xE09F, 0xE09E), (0xEFA2, 0xEFA1), (0xF008, 0xF007), (0xFF66, 0xFF65)] : List (Word × Word)).all
      (fun p => (decode p.1).isOk == false && (decode p.2).isOk) = true := by decide +kernel

/-! ### Witnesses: the step -/

/-- At the last fetchable address (V1). -/
def atLastFetch : State := bytes { State.reset with pc := 0xFFE } 0xFFE [0x1F, 0xFE]

theorem canFetch_atLastFetch : atLastFetch.CanFetch := ⟨rfl, by decide, fun _ => by decide⟩

theorem witness_StepRunsDecodedInstruction :
    atLastFetch.CanFetch ∧
      decode (wordOfBytes (atLastFetch.readByte atLastFetch.pc.toNat) (atLastFetch.readByte (atLastFetch.pc.toNat + 1))) =
        .ok (.jp 0xFFE) :=
  ⟨canFetch_atLastFetch, by decide +kernel⟩

/-- Each way the fault table answers, in order of priority: V6, V4, V7, J8, and none. -/
theorem witness_RunningStepFaultsByTable :
    { State.reset with pc := 0x1001 }.faultRecord = some ⟨.outOfBoundsFetch, 0x1001, none⟩ ∧
    { State.reset with pc := 0x201 }.faultRecord = some ⟨.misalignedFetch, 0x201, none⟩ ∧
    State.reset.faultRecord = some ⟨.unrecognizedInstruction, 0x200, some 0⟩ ∧
    (start 0x00EE).faultRecord = some ⟨.stackUnderflow, 0x200, some 0x00EE⟩ ∧
    atLastFetch.faultRecord = none ∧ atLastFetch.mode = .running := by decide +kernel

theorem witness_IdleStepChangesNothing :
    { State.reset with mode := .suspended 3 }.mode = .suspended 3 ∧
    { State.reset with mode := .halted ⟨.stackOverflow, 0x300, some 0x2300⟩ }.mode =
      .halted ⟨.stackOverflow, 0x300, some 0x2300⟩ := by decide

theorem witness_StepAnswersOneOfThreeResults :
    afterOp .step atLastFetch State.mode = some (.running, .stepped .ok) ∧
    afterOp .step (start 0xF30A) State.mode = some (.suspended 3, .stepped .suspended) := by decide +kernel

theorem witness_InstructionsWriteOnlyTheirRow :
    ∃ t u, exec (.ldImm 3 7) State.reset = .next t ∧ exec .ret State.reset = .next u := ⟨_, _, rfl, rfl⟩

theorem witness_NoStepMovesTimersOrKeys :
    after (regs (start 0xF515) [(5, 9)]) State.DT = some 9 ∧ after (regs (start 0xF518) [(5, 9)]) State.ST = some 9 := by
  decide +kernel

/-- Every clause has a step that changes the piece of state it is about. -/
theorem witness_StepWritesByNamedInstructionsOnly :
    after (lit (start 0x00E0) [(0, 0)]) litPixels = some [] ∧
    after (start 0x2300) State.sp = some 1 ∧ after (start 0xA123) State.I = some 0x123 ∧
    after { regs (start 0xF055) [(0, 7)] with I := 0xFFF } (fun t => t.readByte 0xFFF) = some 7 ∧
    after (start 0xF30A) State.mode = some (.suspended 3) := by decide +kernel

/-- Two states that differ in the entry just above the depth. -/
theorem witness_DeadStackEntriesUnobservable :
    SameLiveState { start 0x2300 with sp := 1 } { start 0x2300 with sp := 1, stack := (Vector.replicate 16 0).set 1 5 } ∧
    (∃ t r, perform .step { start 0x2300 with sp := 1 } = .next (t, r)) :=
  ⟨⟨rfl, by decide⟩, _, _, rfl⟩

theorem witness_JumpToSelfLoopsUnchanged : atLastFetch.AtEnd 0xFFE ∧ atLastFetch.CanFetch :=
  ⟨⟨rfl, rfl, by decide +kernel⟩, canFetch_atLastFetch⟩

/-! ### Witnesses: the invariant -/

/-- A state of a run: a cell is listed, a return address stands at its bound, and the pc is at its bound. -/
def atBounds : State :=
  { State.reset with mem := [(0x300, 1)], pc := 0x10FE, stack := (Vector.replicate 16 0).set 0 0x1000, sp := 1, acc := 1 / 61 }

theorem inv_atBounds : atBounds.Inv where
  cfgWf := by decide
  memWf := by decide +kernel
  accRange := by decide +kernel
  pcBound := by decide
  stackBound := by decide
  reservedIntact := by
    intro _ a ha
    have h : 0x300 ≠ a := by omega
    simp [atBounds, State.readByte, Memory.read, h, State.reset, State.powerOn]
  haltedRecord := by
    intro r hr
    cases hr

theorem witness_StepKeepsInvariant : atBounds.Inv ∧ ∃ t, step atBounds = .next t := ⟨inv_atBounds, _, rfl⟩

theorem witness_HostOperationsKeepInvariant :
    atBounds.Inv ∧ (∃ t r, perform (.load [0x12, 0x00]) atBounds = .next (t, r)) ∧
      ∃ t r, perform (.setKeyState 15 true) atBounds = .next (t, r) :=
  ⟨inv_atBounds, ⟨_, _, rfl⟩, _, _, rfl⟩

/-- The highest place the glyphs may stand. -/
def highFont : Config := { defaultConfig with fontBase := 0x1B0 }

theorem witness_PowerOnMeetsInvariant : highFont.WellFormed := by decide

theorem witness_ReachableStatesMeetInvariant :
    highFont.WellFormed ∧ ∃ t, Reachable highFont t ∧ t.key 5 = true :=
  ⟨by decide, (State.powerOn highFont).setKeyState 5 true,
    .op (o := .setKeyState 5 true) (r := .done) .powerOn rfl, by decide +kernel⟩

/-! ### Witnesses: host operations -/

theorem witness_LoadResetsAndPlacesImage : (List.replicate 0xE00 (0x5A : Byte)).length ≤ 0xE00 :=
  Nat.le_of_eq List.length_replicate
theorem witness_OversizedLoadChangesNothing : (List.replicate 0xE01 (0x5A : Byte)).length + 0x200 > 0x1000 := by
  rw [List.length_replicate]
  decide
theorem witness_PowerOnIsEmptyLoad : highFont.WellFormed := by decide
theorem witness_AdvanceTimersConsumesTicks :
    0 ≤ atBounds.acc ∧ atBounds.acc < 1 / 60 ∧ (0 : Rat) ≤ 1 / 60 ∧ (0 : Rat) ≤ 0 := by decide +kernel
theorem witness_TimerDecayIndependentOfCalls : 0 ≤ atBounds.acc ∧ (0 : Rat) ≤ 1 / 100 ∧ (0 : Rat) ≤ 1 / 60 := by
  decide +kernel

/-- A suspended engine with key 15 up and key 14 down. -/
def waiting : State := { State.reset.setKey 14 true with mode := .suspended 3 }

theorem witness_KeyStateWriteAndResume :
    (15 : Nibble).toNat = 15 ∧ waiting.mode = .suspended 3 ∧ waiting.key 15 = false ∧ waiting.key 14 = true ∧
      (∃ t r, perform (.advanceTimers 0) waiting = .next (t, r)) ∧ 16 > 15 :=
  ⟨rfl, rfl, by decide +kernel, by decide +kernel, ⟨_, _, rfl⟩, by decide⟩

/-- Keys 14 and 15 are down in the poll; 14 was down before, so 15 is the lowest that newly goes down. -/
theorem witness_PollResumesWithLowestKey :
    let pressed : Vector Bool 16 := ((Vector.replicate 16 false).set 14 true).set 15 true
    waiting.mode = .suspended 3 ∧ pressed[(15 : Nibble).toNat]'(by decide) = true ∧ waiting.key 15 = false ∧
      ∀ j : Nibble, j.toNat < 15 → ¬(pressed[j.toNat]'j.isLt = true ∧ waiting.key j = false) := by decide +kernel

/-- A halted engine. -/
def stopped : State := { State.reset with mode := .halted ⟨.stackOverflow, 0x200, some 0x2200⟩ }

theorem witness_HaltedLeftOnlyByLoad :
    stopped.mode = .halted ⟨.stackOverflow, 0x200, some 0x2200⟩ ∧ (0 : Rat) ≤ 1 / 60 ∧
      (∃ t r, perform (.load []) stopped = .next (t, r)) := ⟨rfl, by decide +kernel, _, _, rfl⟩

theorem witness_SuspendedLeftOnlyByKeyOrLoad :
    waiting.mode = .suspended 3 ∧ (∃ t r, perform .step waiting = .next (t, r)) ∧
      (∃ t r, perform (.setKeyState 15 true) waiting = .next (t, r)) ∧ ∃ t r, perform (.load []) waiting = .next (t, r) :=
  ⟨rfl, ⟨_, _, rfl⟩, ⟨_, _, rfl⟩, _, _, rfl⟩

/-- Pressing the held key 14 and releasing it end no wait; a halted engine has
ended badly whatever the host presses; releasing key 14 and pressing it again supplies a key-down transition (T12, T13). -/
theorem witness_BadEndLastsWithoutLoad :
    waiting.EndedBadly [.step, .setKeyState 14 true, .advanceTimers (1 / 60), .setKeyState 14 false] ∧
      stopped.EndedBadly [.setKeyState 5 true] ∧
      (waiting.mode = .suspended 3 ∧ waiting.suppliesKeyDown [.setKeyState 14 false, .setKeyState 14 true] = true) ∧
      ∀ bytes, .load bytes ∈ [HostOp.load (List.replicate 0xE01 0)] → bytes.length > 0xE00 := by
  refine ⟨.inr ⟨⟨3, rfl⟩, by decide +kernel⟩, .inl ⟨_, rfl⟩, ⟨rfl, by decide +kernel⟩, fun bytes h => ?_⟩
  cases List.mem_singleton.1 h
  rw [List.length_replicate]
  decide

/-! ### Witnesses: display, control flow, skips -/

/-- No rows at any `I`; the last byte of memory; one byte past it. -/
theorem witness_DrawFlipsCoveredCells :
    (0 : Nibble).toNat = 0 ∧ (0xFFF : Word).toNat + (1 : Nibble).toNat - 1 ≤ 0xFFF ∧
      1 ≤ (2 : Nibble).toNat ∧ (0xFFF : Word).toNat + (2 : Nibble).toNat - 1 > 0xFFF := by decide

theorem witness_SecondDrawRestoresFramebuffer :
    (0 : Nibble) ≠ 15 ∧ (14 : Nibble) ≠ 15 ∧ ((0 : Nibble).toNat = 0 ∨ State.reset.I.toNat + 0 - 1 ≤ 0xFFF) ∧
      (0xFF1 : Word).toNat + (15 : Nibble).toNat - 1 ≤ 0xFFF := by decide

theorem witness_RetPopsIntoPc :
    0 < { State.reset with sp := 16 }.sp.val ∧ 0 < { State.reset with sp := 1 }.sp.val ∧ State.reset.sp.val = 0 := by decide
theorem witness_CallPushesReturnAddress :
    { State.reset with sp := 15 }.sp.val < 16 ∧ { State.reset with sp := 16 }.sp.val = 16 := by decide
theorem witness_CallThenReturnComesBack : { State.reset with sp := 15 }.sp.val < 16 := by decide
theorem witness_RegisterSkips : (1 : Nibble) ≠ 0 ∧ (15 : Nibble) ≠ 0 := by decide
theorem witness_KeySkips :
    ((regs State.reset [(5, 15)]).reg 5).toNat = (15 : Nibble).toNat ∧ ((regs State.reset [(5, 16)]).reg 5).toNat > 15 := by
  decide +kernel

/-! ### Witnesses: arithmetic -/

/-- A destination that is VF, one that is not, and both values of the flag of an addition. -/
theorem witness_AddSetsCarry :
    after (regs (start 0x8FE4) [(14, 1), (15, 0xFF)]) (pcAnd 15) = some (0x202, 1) ∧
    after (regs (start 0x80E4) [(14, 1), (0, 0xFE)]) (regAndVF 0) = some (0xFF, 0) := by decide +kernel
theorem witness_RandomMaskedByImmediate :
    (0x0F : Byte).getLsbD 4 = false ∧ (∃ t, exec (.rnd 3 0x0F) State.reset = .next t) := ⟨by decide, _, rfl⟩

/-! ### Witnesses: index register and memory -/

theorem witness_GlyphAddressOfDigit :
    ((regs State.reset [(0, 15)]).reg 0).toNat ≤ 15 ∧ ((regs State.reset [(0, 16)]).reg 0).toNat > 15 := by decide +kernel

/-- `I` at both ends of each clause, under protection and without it. -/
theorem witness_DecimalDigitsStored :
    let s := { State.reset with I := 0xFFD }
    let unprotected := { State.reset with I := 0, cfg := { defaultConfig with protectReserved := false } }
    (s.I.toNat + 2 ≤ 0xFFF ∧ (s.cfg.protectReserved = true → 0x200 ≤ s.I.toNat)) ∧
    (unprotected.I.toNat + 2 ≤ 0xFFF ∧ (unprotected.cfg.protectReserved = true → 0x200 ≤ unprotected.I.toNat)) ∧
    { State.reset with I := 0xFFE }.I.toNat + 2 > 0xFFF ∧
    (State.reset.cfg.protectReserved = true ∧ { State.reset with I := 0x1FF }.I.toNat ≤ 0x1FF) := by decide +kernel

theorem witness_RegistersStored :
    let s := { State.reset with I := 0x200 }
    (s.I.toNat + (15 : Nibble).toNat ≤ 0xFFF ∧ (s.cfg.protectReserved = true → 0x200 ≤ s.I.toNat)) ∧
    { State.reset with I := 0xFF1 }.I.toNat + (15 : Nibble).toNat > 0xFFF ∧
    (s.cfg.protectReserved = true ∧ { State.reset with I := 0x1FF }.I.toNat ≤ 0x1FF) := by decide +kernel

theorem witness_RegistersLoaded :
    { State.reset with I := 0xFF0 }.I.toNat + (15 : Nibble).toNat ≤ 0xFFF ∧
    { State.reset with I := 0xFF1 }.I.toNat + (15 : Nibble).toNat > 0xFFF := by decide

theorem witness_StoreThenLoadRestoresRegisters :
    let s := { State.reset with I := 0xFF0 }
    s.I.toNat + (15 : Nibble).toNat ≤ 0xFFF ∧ (s.cfg.protectReserved = true → 0x200 ≤ s.I.toNat) := by decide +kernel

/-- V0 and V1 hold the word 1234, and `I` points at the next instruction. -/
def rewriting : State := { regs (start 0xF155) [(0, 0x12), (1, 0x34)] with I := 0x202 }

theorem witness_StoredCodeRunsNext :
    rewriting.CanFetch ∧ rewriting.I.toNat + (1 : Nibble).toNat ≤ 0xFFF ∧
      (rewriting.cfg.protectReserved = true → 0x200 ≤ rewriting.I.toNat) ∧ (0 : Nibble).toNat + 1 ≤ (1 : Nibble).toNat ∧
      rewriting.I.toNat + (0 : Nibble).toNat = rewriting.pc.toNat + 2 ∧
      decode (rewriting.wordAt rewriting.pc.toNat) = .ok (.ldMemVx 1) ∧
      decode (wordOfBytes (rewriting.reg 0) (rewriting.reg (0 + 1))) = .ok (.jp 0x234) :=
  ⟨⟨by decide +kernel, by decide +kernel, by decide +kernel⟩, by decide +kernel⟩

/-! ### Witnesses: input -/

theorem witness_KeyWaitEndsOnNewPress :
    ((start 0xF30A).setKey 14 true).CanFetch ∧
      decode (((start 0xF30A).setKey 14 true).wordAt ((start 0xF30A).setKey 14 true).pc.toNat) = .ok (.ldVxK 3) ∧
      ((start 0xF30A).setKey 14 true).key 14 = true ∧ ((start 0xF30A).setKey 14 true).key 15 = false :=
  ⟨⟨by decide +kernel, by decide +kernel, by decide +kernel⟩, by decide +kernel⟩

end Sys2Proof.Tests
end

section
/-! PROOFS. The invariant (10_state.md R24, R27, R31; 20_memory.md R51, R53) through each operation of the model, then
through a step and through every operation of the host, and so in every state the host can reach. -/

namespace Sys2Proof.Machine

variable {s t : State} {c : Config}

/-! ### The invariant through one operation on the state -/

/-- The pieces of state the invariant speaks of. -/
def State.invPart (s : State) : Config × Memory × Rat × Word × Vector Word 16 × Mode :=
  (s.cfg, s.mem, s.acc, s.pc, s.stack, s.mode)

theorem State.Inv.of_invPart_eq (h : s.Inv) (e : t.invPart = s.invPart) : t.Inv := by
  cases s
  cases t
  simp only [State.invPart, Prod.mk.injEq] at e
  obtain ⟨rfl, rfl, rfl, rfl, rfl, rfl⟩ := e
  exact { h with }

theorem State.Inv.powerOn (hc : c.WellFormed) : (State.powerOn c).Inv where
  cfgWf := hc
  memWf := State.powerOn_mem_wf c
  accRange := by simp [State.powerOn]
  pcBound := by simp [State.powerOn, loadBase]
  stackBound := by simp [State.powerOn]
  reservedIntact _ _ _ := rfl
  haltedRecord _ hr := by cases hr

/-- The pc of a running engine may be set to any address up to the bound. -/
theorem State.Inv.setPc (h : s.Inv) (hm : s.mode = .running) {a : Word} (ha : a.toNat ≤ 0x10FE) : (s.setPc a).Inv :=
  { h with pcBound := ha, haltedRecord := by simp [hm] }

/-- A jump's target (42_control_flow.md R141, R142) is within the bound of the pc. -/
theorem zext16_le_pcBound (nnn : Addr12) : (zext16 nnn).toNat ≤ 0x10FE := by
  unfold zext16
  bv_omega

/-- So is the target of Bnnn, whose 16-bit sum does not wrap (42_control_flow.md R143). -/
theorem zext16_add_le_pcBound (nnn : Addr12) (v : Byte) : (zext16 nnn + v.setWidth 16).toNat ≤ 0x10FE := by
  unfold zext16
  bv_omega

/-- A mode that is not halted carries no record. -/
theorem State.Inv.setMode (h : s.Inv) {m : Mode} (hm : ∀ r, m ≠ .halted r) : { s with mode := m }.Inv :=
  { h with haltedRecord := fun r hr => absurd hr (hm r) }

/-- A fault's record gives a word exactly when the fetch did not fault (60_exceptions.md R302). -/
theorem State.Inv.takeFault (h : s.Inv) {kind : FaultKind} {w : Option Word}
    (hw : w = none ↔ kind = .outOfBoundsFetch ∨ kind = .misalignedFetch) : (s.takeFault kind w).Inv :=
  { h with
    haltedRecord := fun r hr => by
      cases hr
      exact ⟨rfl, hw⟩ }

/-- A store inside memory and, under protection, above the reserved area. -/
theorem State.Inv.storeBytes (h : s.Inv) {a : Nat} {bs : List Byte} (hend : a + bs.length ≤ 0x1000)
    (hlow : s.cfg.protectReserved = true → 0x200 ≤ a) : (s.storeBytes a bs).Inv :=
  { h with
    memWf := Memory.wf_writeList _ h.memWf hend
    reservedIntact := fun hp x hx => by
      have ha := hlow hp
      rw [State.readByte_storeBytes, dif_neg (by omega)]
      exact h.reservedIntact hp x hx }

/-- A write of a return address at most 0x1000 (42_control_flow.md R142). -/
theorem State.Inv.setStack (h : s.Inv) {j : Nat} (hj : j < 16) {a : Word} (ha : a.toNat ≤ 0x1000) :
    { s with stack := s.stack.set j a hj }.Inv :=
  { h with
    stackBound := fun k => by
      by_cases hk : j = k.val
      · simpa [hk] using ha
      · simpa [Vector.getElem_set_ne _ _ hk] using h.stackBound k }

/-- What is left of the time after its whole ticks is less than one tick (60_exceptions.md R312). -/
theorem State.Inv.advanceTimers (h : s.Inv) {e : Rat} (he : 0 ≤ e) : (s.advanceTimers e).Inv :=
  { h with
    accRange := by
      obtain ⟨hlo, hhi⟩ := ticksIn_bounds (add_nonneg h.accRange.1 he)
      rw [State.advanceTimers_acc]
      norm_num [timerHz] at *
      constructor <;> linarith }

/-! ### The faults of a fetch and of a write -/

theorem State.fetch_error {kind : FaultKind} (h : s.fetch = .error kind) :
    kind = .outOfBoundsFetch ∨ kind = .misalignedFetch := by
  rw [State.fetch_eq] at h
  split_ifs at h <;> cases h
  · exact .inl rfl
  · exact .inr rfl

theorem State.memWrite_error {a : Nat} {bs : List Byte} {kind : FaultKind} (h : s.memWrite a bs = .error kind) :
    kind = .outOfBoundsAccess ∨ kind = .reservedWrite := by
  unfold State.memWrite at h
  split_ifs at h <;> cases h
  · exact .inl rfl
  · exact .inr rfl

/-! ### The pseudocode of an instruction -/

/-- A state in which the pseudocode of an instruction runs, under the configuration `c`: the engine is running, and its
pc was advanced past a word inside memory (40_cycle.md R105). -/
structure State.Executing (c : Config) (s : State) : Prop where
  inv : s.Inv
  cfg : s.cfg = c
  running : s.mode = .running
  pcNext : s.pc.toNat ≤ 0x1000

/-- What the pseudocode of an instruction may answer under the configuration `c`: a state that meets the invariant, or a
fault of the execute phase. -/
def KeepsInv (c : Config) : Except FaultKind State → Prop
  | .ok t => t.Inv ∧ t.cfg = c
  | .error kind => ¬(kind = .outOfBoundsFetch ∨ kind = .misalignedFetch)

theorem State.Inv.executing_advance (h : s.Inv) (hm : s.mode = .running) (hpc : s.pc.toNat ≤ 0xFFE) :
    s.advance.Executing s.cfg := by
  have hnext : (s.pc + 2).toNat ≤ 0x1000 := by bv_omega
  exact ⟨h.setPc hm (by omega), rfl, hm, hnext⟩

/-- The execute-and-commit frame: it commits what the pseudocode answers, or takes its fault with the word. -/
theorem runInstr_keepsInv {i : Instr} {body : State → Except FaultKind State} (h : s.Inv)
    (ht : runInstr i s body = .next t) (hb : KeepsInv s.cfg (body s.advance)) : t.Inv ∧ t.cfg = s.cfg := by
  rcases runInstr_cases s i body with ⟨u, hu, hr⟩ | ⟨kind, hk, hr⟩
  · cases hr.symm.trans ht
    rwa [hu] at hb
  · cases hr.symm.trans ht
    rw [hk] at hb
    exact ⟨h.takeFault (by simpa [KeepsInv] using hb), rfl⟩

namespace State.Executing

/-- Pseudocode that writes no piece of state the invariant speaks of. -/
theorem keepsInv_of_invPart_eq (h : s.Executing c) (e : t.invPart = s.invPart) : KeepsInv c (.ok t) :=
  ⟨h.inv.of_invPart_eq e, (congrArg Prod.fst e).trans h.cfg⟩

theorem keepsInv_setPc (h : s.Executing c) {a : Word} (ha : a.toNat ≤ 0x10FE) : KeepsInv c (.ok (s.setPc a)) :=
  ⟨h.inv.setPc h.running ha, h.cfg⟩

theorem keepsInv_skipIf (h : s.Executing c) (b : Bool) : KeepsInv c (.ok (s.skipIf b)) := by
  have hpc := h.pcNext
  cases b with
  | false => exact ⟨h.inv, h.cfg⟩
  | true => exact h.keepsInv_setPc (by bv_omega)

theorem keepsInv_popToPc (h : s.Executing c) : KeepsInv c s.popToPc := by
  rcases s.popToPc_cases with ⟨-, e⟩ | ⟨hsp, e⟩
  · simp [e, KeepsInv]
  · have htop := h.inv.stackBound ⟨s.sp.val - 1, by omega⟩
    rw [e]
    exact ⟨(h.inv.setPc h.running (htop.trans (by decide))).of_invPart_eq rfl, h.cfg⟩

theorem keepsInv_call (h : s.Executing c) {a : Word} (ha : a.toNat ≤ 0x10FE) :
    KeepsInv c (match s.push s.pc with | .ok t => .ok (t.setPc a) | .error kind => .error kind) := by
  rcases s.push_cases s.pc with ⟨-, e⟩ | ⟨hsp, e⟩
  · simp [e, KeepsInv]
  · simp only [e]
    exact ⟨((h.inv.setStack hsp h.pcNext).setPc h.running ha).of_invPart_eq rfl, h.cfg⟩

theorem keepsInv_memWrite (h : s.Executing c) (a : Nat) (bs : List Byte) : KeepsInv c (s.memWrite a bs) := by
  cases e : s.memWrite a bs with
  | ok t =>
    obtain ⟨rfl, rfl | ⟨hend, hlow⟩⟩ := s.memWrite_ok e
    · exact ⟨h.inv, h.cfg⟩
    · exact ⟨h.inv.storeBytes hend hlow, h.cfg⟩
  | error kind => rcases State.memWrite_error e with rfl | rfl <;> simp [KeepsInv]

/-- Pseudocode that goes on with the bytes of a read. -/
theorem keepsInv_memRead (h : s.Executing c) (a n : Nat) {f : List Byte → State}
    (hf : ∀ bs, (f bs).invPart = s.invPart) :
    KeepsInv c (match s.memRead a n with | .ok bs => .ok (f bs) | .error kind => .error kind) := by
  rw [State.memRead_eq]
  split_ifs
  · exact h.keepsInv_of_invPart_eq (hf _)
  · simp [KeepsInv]

/-- Pseudocode that goes on with the value of a register as an index. -/
theorem keepsInv_regIndex (x : Nibble) {f : Nibble → State} (hf : ∀ d, KeepsInv c (.ok (f d))) :
    KeepsInv c (match s.regIndex x with | .ok d => .ok (f d) | .error kind => .error kind) := by
  rcases s.regIndex_cases x with ⟨-, e⟩ | ⟨-, e⟩
  · simp [e, KeepsInv]
  · simp only [e]
    exact hf _

end State.Executing

/-! ### The invariant through a step and a host operation -/

/-- An instruction at a pc inside memory keeps the invariant and the configuration. -/
theorem exec_keepsInv {i : Instr} (h : s.Inv) (hm : s.mode = .running) (hpc : s.pc.toNat ≤ 0xFFE)
    (ht : exec i s = .next t) : t.Inv ∧ t.cfg = s.cfg := by
  have hx := h.executing_advance hm hpc
  unfold exec at ht
  cases i with
  | cls => exact runInstr_keepsInv h ht (hx.keepsInv_of_invPart_eq rfl)
  | ret => exact runInstr_keepsInv h ht hx.keepsInv_popToPc
  | jp nnn => exact runInstr_keepsInv h ht (hx.keepsInv_setPc (zext16_le_pcBound nnn))
  | call nnn => exact runInstr_keepsInv h ht (hx.keepsInv_call (zext16_le_pcBound nnn))
  | jpV0 nnn => exact runInstr_keepsInv h ht (hx.keepsInv_setPc (zext16_add_le_pcBound nnn _))
  | seImm x v | sneImm x v | seReg x v | sneReg x v => exact runInstr_keepsInv h ht (hx.keepsInv_skipIf _)
  | skp x | sknp x =>
    exact runInstr_keepsInv h ht (State.Executing.keepsInv_regIndex x fun _ => hx.keepsInv_skipIf _)
  | ldImm x v | addImm x v | ldReg x v | or x v | and x v | xor x v | addReg x v | sub x v | shr x v | subn x v
  | shl x v | rnd x v => exact runInstr_keepsInv h ht (hx.keepsInv_of_invPart_eq rfl)
  | ldVxDt x | ldDt x | ldSt x | addI x | ldI x => exact runInstr_keepsInv h ht (hx.keepsInv_of_invPart_eq rfl)
  | ldVxK x => exact runInstr_keepsInv h ht ⟨hx.inv.setMode (by simp), hx.cfg⟩
  | drw x y n => exact runInstr_keepsInv h ht (hx.keepsInv_memRead _ _ fun _ => rfl)
  | ldF x => exact runInstr_keepsInv h ht (State.Executing.keepsInv_regIndex x fun _ => hx.keepsInv_of_invPart_eq rfl)
  | ldB x | ldMemVx x => exact runInstr_keepsInv h ht (hx.keepsInv_memWrite _ _)
  | ldVxMem x =>
    refine runInstr_keepsInv h ht (hx.keepsInv_memRead _ _ fun bs => ?_)
    rw [State.setRegsFrom_eq]
    rfl

theorem step_keepsInv (h : s.Inv) (ht : step s = .next t) : t.Inv ∧ t.cfg = s.cfg := by
  rcases step_cases s with ⟨-, e⟩ | ⟨-, kind, hf, e⟩ | ⟨-, w, _, -, -, e⟩ | ⟨hm, w, i, hf, -, e⟩
  · cases e.symm.trans ht
    exact ⟨h, rfl⟩
  · cases e.symm.trans ht
    exact ⟨h.takeFault (iff_of_true rfl (State.fetch_error hf)), rfl⟩
  · cases e.symm.trans ht
    exact ⟨h.takeFault (by simp), rfl⟩
  · exact exec_keepsInv h hm (State.fetch_ok hf).1 (e.symm.trans ht)

theorem State.load_keepsInv (h : s.Inv) (bytes : List Byte) :
    (s.load bytes).1.Inv ∧ (s.load bytes).1.cfg = s.cfg := by
  rcases s.load_cases bytes with ⟨-, e⟩ | ⟨hlen, e⟩
  · rw [e]
    exact ⟨h, rfl⟩
  · rw [e]
    have hstored : ((State.powerOn s.cfg).storeBytes 0x200 bytes).Inv :=
      (State.Inv.powerOn h.cfgWf).storeBytes (by omega) fun _ => le_rfl
    exact ⟨hstored.of_invPart_eq rfl, rfl⟩

theorem State.setKeyState_keepsInv (h : s.Inv) (k : Nibble) (p : Bool) :
    (s.setKeyState k p).Inv ∧ (s.setKeyState k p).cfg = s.cfg := by
  rcases s.setKeyState_cases k p with ⟨x, -, -, -, e⟩ | ⟨-, e⟩
  · rw [e]
    exact ⟨(h.setMode (m := .running) (by simp)).of_invPart_eq rfl, rfl⟩
  · rw [e]
    exact ⟨h.of_invPart_eq rfl, rfl⟩

theorem perform_keepsInv {op : HostOp} {r : HostReply} (h : s.Inv) (ht : perform op s = .next (t, r)) :
    t.Inv ∧ t.cfg = s.cfg := by
  cases op with
  | load bytes =>
    simp only [perform, Host.Outcome.next.injEq, Prod.mk.injEq] at ht
    obtain ⟨rfl, -⟩ := ht
    exact State.load_keepsInv h bytes
  | step =>
    simp only [perform] at ht
    split at ht <;> cases ht
    next hu => exact step_keepsInv h hu
  | advanceTimers e =>
    simp only [perform] at ht
    split_ifs at ht with he
    cases ht
    exact ⟨h.advanceTimers (not_lt.1 he), rfl⟩
  | setKeyState k p =>
    simp only [perform] at ht
    split_ifs at ht
    cases ht
    exact State.setKeyState_keepsInv h _ p
  | framebufferSnapshot | soundActive | status =>
    cases ht
    exact ⟨h, rfl⟩

/-- Settles O19, by induction on the operations that reach the state. -/
theorem reachableStatesMeetInvariant : Obligations.ReachableStatesMeetInvariant := by
  intro c s hc hs
  induction hs with
  | powerOn => exact ⟨State.Inv.powerOn hc, rfl⟩
  | op _ hop ih =>
    obtain ⟨hinv, hcfg⟩ := ih
    obtain ⟨hinv', hcfg'⟩ := perform_keepsInv hinv hop
    exact ⟨hinv', hcfg'.trans hcfg⟩

end Sys2Proof.Machine
end

section
/-! PROOFS. The invariant through a step and at power-on; then what an instruction and a step may change (10_state.md R24 to
R34, R38; 20_memory.md R50; 60_exceptions.md R302, R313). -/

namespace Sys2Proof.Machine

variable {s t u : State} {parts : List Part} {i : Instr}

/-- Settles O16, by the cases of a step: idle, a fault of fetch or decode, or one instruction. -/
theorem stepKeepsInvariant : Obligations.StepKeepsInvariant := fun _ _ hs ht => (step_keepsInv hs ht).1

/-- Settles O18. Power-on memory lists no cell, so every address holds its reset contents; reset is power-on under the
default configuration. -/
theorem powerOnMeetsInvariant : Obligations.PowerOnMeetsInvariant :=
  ⟨fun _ hc => State.Inv.powerOn hc, State.Inv.powerOn (c := defaultConfig) (by decide)⟩

/-! ### Frames -/

theorem onlyChanges_iff :
    OnlyChanges parts s t ↔
      (.mem ∉ parts → ∀ a, t.readByte a = s.readByte a) ∧ (.V ∉ parts → t.V = s.V) ∧ (.I ∉ parts → t.I = s.I) ∧
      (.pc ∉ parts → t.pc = s.pc) ∧ (.stack ∉ parts → t.stack = s.stack) ∧ (.sp ∉ parts → t.sp = s.sp) ∧
      (.DT ∉ parts → t.DT = s.DT) ∧ (.ST ∉ parts → t.ST = s.ST) ∧ (.acc ∉ parts → t.acc = s.acc) ∧
      (.fb ∉ parts → t.fb = s.fb) ∧ (.keys ∉ parts → t.keys = s.keys) ∧ (.mode ∉ parts → t.mode = s.mode) ∧
      (.cfg ∉ parts → t.cfg = s.cfg) ∧ (.draws ∉ parts → t.draws = s.draws) := by
  constructor
  · intro h
    exact ⟨h .mem, h .V, h .I, h .pc, h .stack, h .sp, h .DT, h .ST, h .acc, h .fb, h .keys, h .mode, h .cfg, h .draws⟩
  · rintro ⟨hmem, hV, hI, hpc, hstack, hsp, hDT, hST, hacc, hfb, hkeys, hmode, hcfg, hdraws⟩ p
    cases p <;> assumption

theorem Part.Same.refl (p : Part) (s : State) : p.Same s s := by
  cases p with
  | mem => exact fun _ => rfl
  | _ => exact Eq.refl _

theorem Part.Same.trans {p : Part} (h : p.Same s t) (h' : p.Same t u) : p.Same s u := by
  cases p with
  | mem => exact fun a => (h' a).trans (h a)
  | _ => exact Eq.trans h' h

theorem OnlyChanges.trans (h : OnlyChanges parts s t) (h' : OnlyChanges parts t u) : OnlyChanges parts s u :=
  fun p hp => (h p hp).trans (h' p hp)

theorem onlyChanges_takeFault (kind : FaultKind) (w : Option Word) : OnlyChanges [.mode] s (s.takeFault kind w) := by
  simp [onlyChanges_iff]

/-- Pseudocode that, run from `s`, either raises a fault or ends in a state that differs from `s` in the given pieces
only. -/
def CommitsOnly (parts : List Part) (s : State) : Except FaultKind State → Prop
  | .ok t => OnlyChanges parts s t
  | .error _ => True

@[simp] theorem commitsOnly_ok : CommitsOnly parts s (.ok t) ↔ OnlyChanges parts s t := Iff.rfl

@[simp] theorem commitsOnly_error (kind : FaultKind) : CommitsOnly parts s (.error kind) := trivial

theorem commitsOnly_memWrite (hmem : .mem ∈ parts) (a : Nat) (bs : List Byte) :
    CommitsOnly parts s (s.memWrite a bs) := by
  cases e : s.memWrite a bs with
  | ok t =>
    obtain ⟨rfl, -⟩ := s.memWrite_ok e
    simp [onlyChanges_iff, hmem]
  | error kind => trivial

theorem pc_mem_instrWrites (i : Instr) : .pc ∈ instrWrites i := by cases i <;> exact List.mem_cons_self

/-- The execute-and-commit frame: the advance, then what the pseudocode commits; or its fault. -/
theorem runInstr_frame {body : State → Except FaultKind State} (ht : runInstr i s body = .next t)
    (hb : CommitsOnly (instrWrites i) s.advance (body s.advance)) :
    OnlyChanges (instrWrites i) s t ∨ ∃ kind, t = s.takeFault kind (some (encode i)) := by
  rcases runInstr_cases s i body with ⟨v, hv, hr⟩ | ⟨kind, -, hr⟩
  · cases hr.symm.trans ht
    rw [hv] at hb
    have hadvance : OnlyChanges (instrWrites i) s s.advance := by simp [onlyChanges_iff, pc_mem_instrWrites]
    exact .inl (hadvance.trans hb)
  · cases hr.symm.trans ht
    exact .inr ⟨kind, rfl⟩

/-- An instruction changes the pieces of its row only, or takes a fault. -/
theorem exec_frame (ht : exec i s = .next t) :
    OnlyChanges (instrWrites i) s t ∨ ∃ kind, t = s.takeFault kind (some (encode i)) := by
  unfold exec at ht
  cases i with
  | cls => exact runInstr_frame ht (by simp [onlyChanges_iff, instrWrites, State.readByte])
  | ret =>
    refine runInstr_frame ht ?_
    rcases s.advance.popToPc_cases with ⟨-, e⟩ | ⟨_, e⟩ <;> simp [e, onlyChanges_iff, instrWrites, State.readByte]
  | jp nnn | jpV0 nnn => exact runInstr_frame ht (by simp [onlyChanges_iff, instrWrites])
  | call nnn =>
    refine runInstr_frame ht ?_
    rcases s.advance.push_cases s.advance.pc with ⟨-, e⟩ | ⟨_, e⟩ <;> simp only [e] <;>
      simp [onlyChanges_iff, instrWrites, State.readByte]
  | seImm x v | sneImm x v | seReg x v | sneReg x v =>
    exact runInstr_frame ht (by simp [onlyChanges_iff, instrWrites])
  | ldImm x v | addImm x v | ldReg x v | or x v | and x v | xor x v | ldVxDt x =>
    exact runInstr_frame ht (by simp [onlyChanges_iff, instrWrites])
  | addReg x y | sub x y | shr x y | subn x y | shl x y =>
    exact runInstr_frame ht (by simp [onlyChanges_iff, instrWrites, State.readByte])
  | rnd x nn => exact runInstr_frame ht (by simp [onlyChanges_iff, instrWrites, State.readByte, State.draw])
  | ldI x | addI x | ldVxK x | ldDt x | ldSt x =>
    exact runInstr_frame ht (by simp [onlyChanges_iff, instrWrites, State.readByte])
  | skp x | sknp x | drw x y n | ldF x =>
    refine runInstr_frame ht ?_
    split <;> simp [onlyChanges_iff, instrWrites, State.readByte]
  | ldB x | ldMemVx x => exact runInstr_frame ht (commitsOnly_memWrite (by simp [instrWrites]) _ _)
  | ldVxMem x =>
    refine runInstr_frame ht ?_
    split
    · rw [State.setRegsFrom_eq]
      simp [onlyChanges_iff, instrWrites, State.readByte]
    · trivial

/-- Settles O10, by the cases of the instruction in `exec_frame`. -/
theorem instructionsWriteOnlyTheirRow : Obligations.InstructionsWriteOnlyTheirRow := by
  intro i s t ht
  rcases exec_frame ht with h | ⟨kind, rfl⟩
  · exact .inl h
  · exact .inr ⟨kind, ht⟩

/-! ### What a step may change -/

/-- A step that changes a piece of state executes an instruction whose row has it, or halts the engine. -/
theorem step_changes {p : Part} (ht : step s = .next t) (hp : ¬p.Same s t) :
    (∃ i, decode (s.wordAt s.pc.toNat) = .ok i ∧ exec i s = .next t ∧ p ∈ instrWrites i) ∨
      (p = .mode ∧ ∃ r, t.mode = .halted r) := by
  have fault : ∀ kind w, t = s.takeFault kind w → p = .mode ∧ ∃ r, t.mode = .halted r := by
    rintro kind w rfl
    refine ⟨?_, _, rfl⟩
    by_contra hmode
    exact hp (onlyChanges_takeFault kind w p (by simpa using hmode))
  rcases step_cases s with ⟨-, e⟩ | ⟨-, kind, -, e⟩ | ⟨-, w, _, -, -, e⟩ | ⟨-, w, i, hf, hd, e⟩
  · cases e.symm.trans ht
    exact absurd (Part.Same.refl p s) hp
  · cases e.symm.trans ht
    exact .inr (fault _ _ rfl)
  · cases e.symm.trans ht
    exact .inr (fault _ _ rfl)
  · have hx := e.symm.trans ht
    obtain ⟨-, -, rfl⟩ := State.fetch_ok hf
    rcases exec_frame hx with h | ⟨kind, hk⟩
    · exact .inl ⟨i, hd, hx, by_contra fun hn => hp (h p hn)⟩
    · exact .inr (fault _ _ hk)

/-- A piece of state other than the mode changes only by an instruction whose row has it. -/
theorem step_writes {p : Part} (ht : step s = .next t) (hmode : p ≠ .mode) (hp : ¬p.Same s t) :
    ∃ i, decode (s.wordAt s.pc.toNat) = .ok i ∧ exec i s = .next t ∧ p ∈ instrWrites i :=
  (step_changes ht hp).resolve_right fun h => hmode h.1

/-- A piece of state in no row is the same after every step. -/
theorem step_same {p : Part} (ht : step s = .next t) (hmode : p ≠ .mode) (hrow : ∀ i, p ∉ instrWrites i) :
    p.Same s t := by
  by_contra hp
  obtain ⟨i, -, -, hi⟩ := step_writes ht hmode hp
  exact hrow i hi

theorem acc_notMem_instrWrites (i : Instr) : .acc ∉ instrWrites i := by cases i <;> simp [instrWrites]

theorem keys_notMem_instrWrites (i : Instr) : .keys ∉ instrWrites i := by cases i <;> simp [instrWrites]

theorem cfg_notMem_instrWrites (i : Instr) : .cfg ∉ instrWrites i := by cases i <;> simp [instrWrites]

theorem fb_mem_instrWrites : .fb ∈ instrWrites i ↔ i = .cls ∨ ∃ x y n, i = .drw x y n := by
  cases i <;> simp [instrWrites]

theorem sp_mem_instrWrites : .sp ∈ instrWrites i ↔ i = .ret ∨ ∃ nnn, i = .call nnn := by
  cases i <;> simp [instrWrites]

theorem stack_mem_instrWrites : .stack ∈ instrWrites i ↔ ∃ nnn, i = .call nnn := by
  cases i <;> simp [instrWrites]

theorem I_mem_instrWrites : .I ∈ instrWrites i ↔ (∃ nnn, i = .ldI nnn) ∨ ∃ x, i = .addI x ∨ i = .ldF x := by
  cases i <;> simp [instrWrites]

theorem mem_mem_instrWrites : .mem ∈ instrWrites i ↔ ∃ x, i = .ldB x ∨ i = .ldMemVx x := by
  cases i <;> simp [instrWrites]

theorem mode_mem_instrWrites : .mode ∈ instrWrites i ↔ ∃ x, i = .ldVxK x := by
  cases i <;> simp [instrWrites]

theorem DT_mem_instrWrites : .DT ∈ instrWrites i ↔ ∃ x, i = .ldDt x := by
  cases i <;> simp [instrWrites]

theorem ST_mem_instrWrites : .ST ∈ instrWrites i ↔ ∃ x, i = .ldSt x := by
  cases i <;> simp [instrWrites]

/-- Settles O11. No row has the accumulator, the keys or the configuration, and only Fx15 and Fx18 have a timer. -/
theorem noStepMovesTimersOrKeys : Obligations.NoStepMovesTimersOrKeys := by
  intro s t ht
  have hacc : t.acc = s.acc := step_same (p := .acc) ht (by simp) acc_notMem_instrWrites
  have hkeys : t.keys = s.keys := step_same (p := .keys) ht (by simp) keys_notMem_instrWrites
  have hcfg : t.cfg = s.cfg := step_same (p := .cfg) ht (by simp) cfg_notMem_instrWrites
  refine ⟨hacc, hkeys, hcfg, or_iff_not_imp_left.2 fun hne => ?_, or_iff_not_imp_left.2 fun hne => ?_⟩
  · obtain ⟨i, hd, hx, hi⟩ := step_writes (p := .DT) ht (by simp) hne
    obtain ⟨x, rfl⟩ := DT_mem_instrWrites.1 hi
    cases hx
    exact ⟨x, hd, rfl⟩
  · obtain ⟨i, hd, hx, hi⟩ := step_writes (p := .ST) ht (by simp) hne
    obtain ⟨x, rfl⟩ := ST_mem_instrWrites.1 hi
    cases hx
    exact ⟨x, hd, rfl⟩

/-- Settles O12, piece by piece: the instructions whose rows have it are the ones named. -/
theorem stepWritesByNamedInstructionsOnly : Obligations.StepWritesByNamedInstructionsOnly := by
  intro s t ht here
  refine ⟨fun hne => ?_, fun hne => ?_, fun hne => ?_, fun ⟨a, ha⟩ => ?_, fun hne => ?_⟩
  · obtain ⟨i, hd, -, hi⟩ := step_writes (p := .fb) ht (by simp) hne
    simpa [here, hd] using fb_mem_instrWrites.1 hi
  · rcases hne with hne | hne
    · obtain ⟨i, hd, -, hi⟩ := step_writes (p := .sp) ht (by simp) hne
      simpa [here, hd] using sp_mem_instrWrites.1 hi
    · obtain ⟨i, hd, -, hi⟩ := step_writes (p := .stack) ht (by simp) hne
      simpa [here, hd] using .inr (stack_mem_instrWrites.1 hi)
  · obtain ⟨i, hd, -, hi⟩ := step_writes (p := .I) ht (by simp) hne
    simpa [here, hd] using I_mem_instrWrites.1 hi
  · obtain ⟨i, hd, -, hi⟩ := step_writes (p := .mem) ht (by simp) fun h => ha (h a)
    simpa [here, hd] using mem_mem_instrWrites.1 hi
  · rcases step_changes (p := .mode) ht hne with ⟨i, hd, -, hi⟩ | ⟨-, hr⟩
    · obtain ⟨x, rfl⟩ := mode_mem_instrWrites.1 hi
      exact .inl ⟨x, hd⟩
    · exact .inr hr

end Sys2Proof.Machine
end

section
/-! PROOFS. That no operation of the host observes a stack entry at index `sp` or above (10_state.md R25, R36): a state and
the same state with another stack that agrees below `sp` go through each operation alike. -/

namespace Sys2Proof.Machine

variable {s s' t : State} {i : Instr} {w : Vector Word 16}

/-- The state with other stack entries. -/
def State.withStack (s : State) (w : Vector Word 16) : State := { s with stack := w }

@[simp] theorem State.withStack_sp : (s.withStack w).sp = s.sp := rfl
@[simp] theorem State.withStack_pc : (s.withStack w).pc = s.pc := rfl
@[simp] theorem State.withStack_mode : (s.withStack w).mode = s.mode := rfl
@[simp] theorem State.withStack_cfg : (s.withStack w).cfg = s.cfg := rfl
@[simp] theorem State.dataAddr_withStack : (s.withStack w).dataAddr = s.dataAddr := rfl
@[simp] theorem State.key_withStack (k : Nibble) : (s.withStack w).key k = s.key k := rfl
@[simp] theorem State.regIndex_withStack (x : Nibble) : (s.withStack w).regIndex x = s.regIndex x := rfl
@[simp] theorem State.memRead_withStack (a n : Nat) : (s.withStack w).memRead a n = s.memRead a n := rfl

theorem State.skipIf_withStack (b : Bool) : (s.withStack w).skipIf b = (s.skipIf b).withStack w := by cases b <;> rfl

theorem State.setRegsFrom_withStack (j : Nat) (bs : List Byte) :
    (s.withStack w).setRegsFrom j bs = (s.setRegsFrom j bs).withStack w := by
  induction bs generalizing s j with
  | nil => rfl
  | cons b bs ih => exact ih (s := s.setReg _ b) _

theorem State.setRegsFrom_stack (j : Nat) (bs : List Byte) : (s.setRegsFrom j bs).stack = s.stack := by
  rw [State.setRegsFrom_eq]

theorem State.setRegsFrom_sp (j : Nat) (bs : List Byte) : (s.setRegsFrom j bs).sp = s.sp := by
  rw [State.setRegsFrom_eq]

theorem State.memWrite_withStack (a : Nat) (bs : List Byte) :
    (s.withStack w).memWrite a bs = (s.memWrite a bs).map (·.withStack w) := by
  unfold State.memWrite
  rw [State.withStack_cfg]
  split_ifs <;> rfl

theorem State.setKeyState_withStack (k : Nibble) (p : Bool) :
    (s.withStack w).setKeyState k p = (s.setKeyState k p).withStack w := by
  cases hm : s.mode with
  | suspended x => cases hk : p && !s.key k <;> (simp [State.setKeyState, hm, hk]; rfl)
  | running | halted r =>
    simp only [State.setKeyState, State.withStack_mode, hm]
    rfl

/-! ### States that differ in dead entries -/

theorem sameLiveState_withStack :
    SameLiveState s (s.withStack w) ↔ ∀ k : Fin 16, k.val < s.sp.val → w[k.val] = s.stack[k.val] :=
  and_iff_right rfl

theorem SameLiveState.refl (s : State) : SameLiveState s s := ⟨rfl, fun _ _ => rfl⟩

theorem SameLiveState.mode_eq (h : SameLiveState s s') : s'.mode = s.mode := by rw [h.1]

/-- What neither writes the stack nor moves the depth, done to both states. -/
theorem SameLiveState.update (h : SameLiveState s (s.withStack w)) (hstack : t.stack = s.stack) (hsp : t.sp = s.sp) :
    SameLiveState t (t.withStack w) := by
  rw [sameLiveState_withStack] at h ⊢
  rwa [hstack, hsp]

/-! ### Pseudocode that runs from two such states -/

/-- Two runs of pseudocode end alike: in states that differ in dead stack entries only, or with the same fault. -/
def AnswersAlike : Except FaultKind State → Except FaultKind State → Prop
  | .ok t, .ok t' => SameLiveState t t'
  | .error kind, .error kind' => kind = kind'
  | _, _ => False

theorem AnswersAlike.of_ok {r : Except FaultKind State} (h : AnswersAlike (.ok t) r) :
    ∃ t', r = .ok t' ∧ SameLiveState t t' := by
  cases r with
  | ok t' => exact ⟨t', rfl, h⟩
  | error kind => cases h

theorem AnswersAlike.of_error {kind : FaultKind} {r : Except FaultKind State} (h : AnswersAlike (.error kind) r) :
    r = .error kind := by
  cases r with
  | ok t' => cases h
  | error kind' => exact congrArg _ (Eq.symm h)

/-- The execute-and-commit frame around pseudocode that ends alike. -/
theorem runInstr_alike {body : State → Except FaultKind State} (h : SameLiveState s (s.withStack w))
    (ht : runInstr i s body = .next t) (hb : AnswersAlike (body s.advance) (body (s.advance.withStack w))) :
    ∃ t', runInstr i (s.withStack w) body = .next t' ∧ SameLiveState t t' := by
  rcases runInstr_cases s i body with ⟨u, hu, hr⟩ | ⟨kind, hk, hr⟩
  · cases hr.symm.trans ht
    rw [hu] at hb
    obtain ⟨u', hu', hl⟩ := hb.of_ok
    exact ⟨u', runInstr_ok (s.withStack w) hu', hl⟩
  · cases hr.symm.trans ht
    rw [hk] at hb
    exact ⟨_, runInstr_error (s.withStack w) hb.of_error, h.update rfl rfl⟩

namespace SameLiveState

theorem answer (h : SameLiveState s (s.withStack w)) (hstack : t.stack = s.stack) (hsp : t.sp = s.sp) :
    AnswersAlike (.ok t) (.ok (t.withStack w)) := h.update hstack hsp

theorem answer_skipIf (h : SameLiveState s (s.withStack w)) (b : Bool) :
    AnswersAlike (.ok (s.skipIf b)) (.ok ((s.withStack w).skipIf b)) := by
  rw [State.skipIf_withStack]
  exact h.answer (by simp) (by simp)

theorem answer_memWrite (h : SameLiveState s (s.withStack w)) (a : Nat) (bs : List Byte) :
    AnswersAlike (s.memWrite a bs) ((s.withStack w).memWrite a bs) := by
  rw [State.memWrite_withStack]
  cases e : s.memWrite a bs with
  | ok t =>
    obtain ⟨rfl, -⟩ := s.memWrite_ok e
    exact h.answer rfl rfl
  | error kind => rfl

/-- A pop reads the entry under the depth, which is live, and lowers the depth. -/
theorem answer_popToPc (h : SameLiveState s (s.withStack w)) : AnswersAlike s.popToPc (s.withStack w).popToPc := by
  rw [sameLiveState_withStack] at h
  by_cases hsp : 0 < s.sp.val
  · have htop : w[s.sp.val - 1] = s.stack[s.sp.val - 1] := h ⟨s.sp.val - 1, by omega⟩ (by dsimp; omega)
    simp only [State.popToPc, State.withStack, hsp, dite_true, htop]
    exact ⟨rfl, fun k hk => h k (by dsimp at hk; omega)⟩
  · simp [State.popToPc, hsp, AnswersAlike]

/-- A push overwrites the entry at the depth, the only one that becomes live. -/
theorem answer_call (h : SameLiveState s (s.withStack w)) (a : Word) :
    AnswersAlike (match s.push s.pc with | .ok t => .ok (t.setPc a) | .error kind => .error kind)
      (match (s.withStack w).push (s.withStack w).pc with
        | .ok t => .ok (t.setPc a)
        | .error kind => .error kind) := by
  rw [sameLiveState_withStack] at h
  by_cases hsp : s.sp.val < 16
  · unfold State.push
    rw [dif_pos hsp, dif_pos (c := (s.withStack w).sp.val < 16) hsp]
    refine ⟨rfl, fun k hk => ?_⟩
    by_cases hk' : s.sp.val = k.val
    · simp [hk']
    · have hlt : k.val < s.sp.val := by dsimp at hk; omega
      simpa [State.withStack, Vector.getElem_set_ne _ _ hk'] using h k hlt
  · simp [State.push, hsp, AnswersAlike]

end SameLiveState

/-! ### The step, one equation per outcome of its front (40_cycle.md R101 to R106) -/

theorem step_idle (hm : s.mode ≠ .running) : step s = .next s := by
  simp [step, s.frontEnd_idle hm]

theorem step_fetchFault {kind : FaultKind} (hm : s.mode = .running) (hf : s.fetch = .error kind) :
    step s = .next (s.takeFault kind none) := by
  simp [step, State.frontEnd, hm, hf]

theorem step_decodeFault {v : Word} {r : DecodeReject} (hm : s.mode = .running) (hf : s.fetch = .ok v)
    (hd : decode v = .error r) : step s = .next (s.takeFault .unrecognizedInstruction (some v)) := by
  simp [step, State.frontEnd, hm, hf, hd]

theorem step_decoded {v : Word} (hm : s.mode = .running) (hf : s.fetch = .ok v) (hd : decode v = .ok i) :
    step s = exec i s := by
  simp [step, State.frontEnd, hm, hf, hd]

/-! ### A step and a host operation from two such states -/

theorem exec_alike (h : SameLiveState s (s.withStack w)) (ht : exec i s = .next t) :
    ∃ t', exec i (s.withStack w) = .next t' ∧ SameLiveState t t' := by
  have ha : SameLiveState s.advance (s.advance.withStack w) := h.update rfl rfl
  unfold exec at ht ⊢
  cases i with
  | ret => exact runInstr_alike h ht ha.answer_popToPc
  | call nnn => exact runInstr_alike h ht (ha.answer_call _)
  | seImm x v | sneImm x v | seReg x v | sneReg x v => exact runInstr_alike h ht (ha.answer_skipIf _)
  | skp x | sknp x =>
    refine runInstr_alike h ht ?_
    simp only [State.regIndex_withStack]
    split
    · exact ha.answer_skipIf _
    · rfl
  | drw x y n | ldF x =>
    refine runInstr_alike h ht ?_
    simp only [State.dataAddr_withStack, State.memRead_withStack, State.regIndex_withStack]
    split
    · exact ha.answer rfl rfl
    · rfl
  | ldB x | ldMemVx x => exact runInstr_alike h ht (ha.answer_memWrite _ _)
  | ldVxMem x =>
    refine runInstr_alike h ht ?_
    simp only [State.dataAddr_withStack, State.memRead_withStack, State.setRegsFrom_withStack]
    split
    · exact ha.answer (State.setRegsFrom_stack _ _) (State.setRegsFrom_sp _ _)
    · rfl
  | _ => exact runInstr_alike h ht (ha.answer rfl rfl)

theorem step_alike (h : SameLiveState s (s.withStack w)) (ht : step s = .next t) :
    ∃ t', step (s.withStack w) = .next t' ∧ SameLiveState t t' := by
  rcases step_cases s with ⟨hm, e⟩ | ⟨hm, kind, hf, e⟩ | ⟨hm, v, r, hf, hd, e⟩ | ⟨hm, v, i, hf, hd, e⟩
  · cases e.symm.trans ht
    exact ⟨_, step_idle hm, h⟩
  · cases e.symm.trans ht
    exact ⟨_, step_fetchFault hm hf, h.update rfl rfl⟩
  · cases e.symm.trans ht
    exact ⟨_, step_decodeFault hm hf hd, h.update rfl rfl⟩
  · obtain ⟨t', hx, hl⟩ := exec_alike h (e.symm.trans ht)
    exact ⟨t', (step_decoded (s := s.withStack w) hm hf hd).trans hx, hl⟩

theorem State.load_alike (h : SameLiveState s (s.withStack w)) (bytes : List Byte) :
    SameLiveState (s.load bytes).1 ((s.withStack w).load bytes).1 ∧
      ((s.withStack w).load bytes).2 = (s.load bytes).2 := by
  unfold State.load
  split
  · exact ⟨h, rfl⟩
  · exact ⟨.refl _, rfl⟩

/-- Settles O13, operation by operation. -/
theorem deadStackEntriesUnobservable : Obligations.DeadStackEntriesUnobservable := by
  intro op s s' t reply h ht
  obtain ⟨w, rfl⟩ : ∃ w, s' = s.withStack w := ⟨_, h.1⟩
  cases op with
  | load bytes =>
    simp only [perform, Host.Outcome.next.injEq, Prod.mk.injEq] at ht
    obtain ⟨rfl, rfl⟩ := ht
    obtain ⟨hl, hreply⟩ := State.load_alike h bytes
    exact ⟨_, by rw [perform, hreply], hl⟩
  | step =>
    simp only [perform] at ht
    split at ht <;> cases ht
    next hu =>
      obtain ⟨t', hu', hl⟩ := step_alike h hu
      exact ⟨t', by simp [perform, hu', hl.mode_eq], hl⟩
  | advanceTimers e =>
    simp only [perform] at ht ⊢
    split_ifs at ht ⊢
    cases ht
    exact ⟨_, rfl, h.update rfl rfl⟩
  | setKeyState k p =>
    simp only [perform] at ht ⊢
    split_ifs at ht ⊢
    cases ht
    refine ⟨_, rfl, ?_⟩
    rw [State.setKeyState_withStack]
    rcases s.setKeyState_cases (BitVec.ofNat 4 k) p with ⟨x, -, -, -, e⟩ | ⟨-, e⟩
    · exact e ▸ h.update rfl rfl
    · exact e ▸ h.update rfl rfl
  | framebufferSnapshot | soundActive | status =>
    cases ht
    exact ⟨_, rfl, h⟩

end Sys2Proof.Machine
end

section
/-! PROOFS. Self-modifying code (20_memory.md R65): a store by Fx55 is in memory before the next fetch, so the fetch reads
the stored bytes. -/

namespace Sys2Proof.Machine

variable {s : State} {i : Instr} {x k : Nibble}

/-! ### The step of a state that can fetch -/

theorem State.CanFetch.fetch_eq_wordAt (h : s.CanFetch) : s.fetch = .ok (s.wordAt s.pc.toNat) := by
  obtain ⟨-, hpc, halign⟩ := h
  rw [State.fetch_eq, if_neg (by omega), if_neg fun ⟨hc, hodd⟩ => by have := halign hc; omega]

theorem State.CanFetch.step_eq_exec (h : s.CanFetch) (hd : decode (s.wordAt s.pc.toNat) = .ok i) :
    step s = exec i s :=
  step_decoded h.1 h.fetch_eq_wordAt hd

/-- The next word can be fetched when it lies inside memory: the default advance keeps the pc even. -/
theorem State.CanFetch.advance (h : s.CanFetch) (hpc : s.pc.toNat + 2 ≤ 0xFFE) : s.advance.CanFetch := by
  obtain ⟨hm, -, halign⟩ := h
  have hnext : (s.pc + 2).toNat = s.pc.toNat + 2 := by bv_omega
  refine ⟨hm, hnext.trans_le hpc, fun hc => ?_⟩
  have := halign hc
  rw [State.advance_pc, hnext]
  omega

/-! ### The store of a register range (45_index_memory.md R224) -/

/-- Each stored register is read back at its place in the range. -/
theorem State.readByte_storeBytes_regsUpTo (s t : State) (a : Nat) (hk : k.toNat ≤ x.toNat) :
    (s.storeBytes a (t.regsUpTo x)).readByte (a + k.toNat) = t.reg k := by
  rw [State.readByte_storeBytes, dif_pos (by rw [State.length_regsUpTo]; omega), State.getElem_regsUpTo]
  simp

/-- A write inside memory and, under protection, above the reserved area stores its bytes (20_memory.md R56). -/
theorem State.memWrite_inRange {a : Nat} {bs : List Byte} (hb : bs ≠ []) (hend : a + bs.length ≤ 0x1000)
    (hres : s.cfg.protectReserved = true → 0x200 ≤ a) : s.memWrite a bs = .ok (s.storeBytes a bs) := by
  rw [State.memWrite_eq _ _ _ hb, if_neg (by omega), if_neg fun ⟨hp, hlow⟩ => by have := hres hp; omega]

theorem exec_ldMemVx (x : Nibble) (s : State) :
    exec (.ldMemVx x) s = runInstr (.ldMemVx x) s fun u => u.memWrite u.dataAddr (u.regsUpTo x) := rfl

/-- Fx55 whose range lies inside memory and, under protection, above the reserved area completes. -/
theorem exec_ldMemVx_inRange (hend : s.I.toNat + x.toNat ≤ 0xFFF)
    (hres : s.cfg.protectReserved = true → 0x200 ≤ s.I.toNat) :
    exec (.ldMemVx x) s = .next (s.advance.storeBytes s.I.toNat (s.regsUpTo x)) := by
  have hlen : (s.regsUpTo x).length = x.toNat + 1 := s.length_regsUpTo x
  have hb : s.regsUpTo x ≠ [] := List.ne_nil_of_length_eq_add_one hlen
  have hrange : s.I.toNat + (s.regsUpTo x).length ≤ 0x1000 := by omega
  exact (exec_ldMemVx x s).trans (runInstr_ok s (State.memWrite_inRange (s := s.advance) hb hrange hres))

/-- Settles O52. The store leaves the state able to fetch at the next word, whose two bytes are `V[k]` and `V[k+1]`. -/
theorem storedCodeRunsNext : Obligations.StoredCodeRunsNext := by
  intro s x k i hs hend hres hk hat hd hi
  refine ⟨_, (hs.step_eq_exec hd).trans (exec_ldMemVx_inRange hend hres), ?_⟩
  have hx := x.isLt
  have hpc : (s.pc + 2).toNat = s.I.toNat + k.toNat := by bv_omega
  have hk1 : (k + 1).toNat = k.toNat + 1 := by bv_omega
  have hfetch : (s.advance.storeBytes s.I.toNat (s.regsUpTo x)).CanFetch := hs.advance (by omega)
  refine hfetch.step_eq_exec ?_
  rw [State.storeBytes_pc, State.advance_pc, hpc, State.wordAt, Nat.add_assoc, ← hk1,
    State.readByte_storeBytes_regsUpTo _ _ _ (by omega), State.readByte_storeBytes_regsUpTo _ _ _ (by omega)]
  exact hi

end Sys2Proof.Machine
end

section
/-! PROOFS. The decoder and the encoder are inverse to each other, the words that do not decode are the six classes of
the spec, and the decoder agrees with the opcode map (30_encoding.md R70 to R76). -/

namespace Sys2Proof

variable {w : Word} {i : Instr} {e : DecodeReject} {r q : OpRow}

/-! ### Decoding the word of an instruction -/

/-- By the layout of the instruction's word: the fields of a laid-out word are the operands it was laid out from. -/
theorem decode_encode (i : Instr) : decode (encode i) = .ok i := by
  cases i with
  | cls | ret => decide
  | jp | call | ldI | jpV0 => simp [encode, decode]
  | seImm | sneImm | ldImm | addImm | rnd => simp [encode, decode]
  | seReg | sneReg | drw => simp [encode, decode]
  | ldReg | or | and | xor | addReg | sub | shr | subn | shl => simp [encode, decode, decodeFamily8]
  | skp | sknp => simp [encode, decode, decodeFamilyE]
  | ldVxDt | ldVxK | ldDt | ldSt | addI | ldF | ldB | ldMemVx | ldVxMem =>
    simp [encode, decode, decodeFamilyF]

/-- Settles O1, by the fields of each instruction's layout. -/
theorem decodeInvertsEncode : Obligations.DecodeInvertsEncode := decode_encode

/-! ### The word of a decoded instruction -/

theorem nibble_eq_of_toNat_eq {x : Nibble} {k : Nat} (h : x.toNat = k) : x = .ofNat 4 k := by
  subst h
  simp

theorem layoutA_eq {op : Nat} (hop : (fieldOp w).toNat = op) : layoutA (.ofNat 4 op) (fieldNNN w) = w := by
  rw [← nibble_eq_of_toNat_eq hop, layoutA_fields]

theorem layoutXNN_eq {op : Nat} {nn : Byte} (hop : (fieldOp w).toNat = op) (hnn : fieldNN w = nn) :
    layoutXNN (.ofNat 4 op) (fieldX w) nn = w := by
  rw [← nibble_eq_of_toNat_eq hop, ← hnn, layoutXNN_fields]

theorem layoutXYN_eq {op : Nat} {n : Nibble} (hop : (fieldOp w).toNat = op) (hn : fieldN w = n) :
    layoutXYN (.ofNat 4 op) (fieldX w) (fieldY w) n = w := by
  rw [← nibble_eq_of_toNat_eq hop, ← hn, layoutXYN_fields]

theorem encode_of_decodeFamily8 (hop : (fieldOp w).toNat = 0x8) (h : decodeFamily8 w = .ok i) : encode i = w := by
  unfold decodeFamily8 at h
  split at h <;> cases h
  all_goals next hn => exact layoutXYN_eq hop (nibble_eq_of_toNat_eq hn)

theorem encode_of_decodeFamilyE (hop : (fieldOp w).toNat = 0xE) (h : decodeFamilyE w = .ok i) : encode i = w := by
  unfold decodeFamilyE at h
  split_ifs at h with hnn hnn <;> cases h
  all_goals exact layoutXNN_eq hop hnn

theorem encode_of_decodeFamilyF (hop : (fieldOp w).toNat = 0xF) (h : decodeFamilyF w = .ok i) : encode i = w := by
  unfold decodeFamilyF at h
  split_ifs at h with hnn hnn hnn hnn hnn hnn hnn hnn hnn <;> cases h
  all_goals exact layoutXNN_eq hop hnn

/-- By the `op` of the word, 0x0 to 0xF in turn: each family decodes to the fields of a layout, and a
word is its own layout. -/
theorem encode_of_decode (h : decode w = .ok i) : encode i = w := by
  unfold decode at h
  have hlt := (fieldOp w).isLt
  generalize hop : (fieldOp w).toNat = op at h hlt
  interval_cases op
  · by_cases hcls : w = 0x00E0#16
    · obtain rfl : .cls = i := by simpa [hcls] using h
      exact hcls.symm
    · obtain ⟨hret, rfl⟩ : w = 0x00EE#16 ∧ .ret = i := by simpa [hcls, ite_eq_iff] using h
      exact hret.symm
  · cases h; exact layoutA_eq hop
  · cases h; exact layoutA_eq hop
  · cases h; exact layoutXNN_eq hop rfl
  · cases h; exact layoutXNN_eq hop rfl
  · obtain ⟨hn, rfl⟩ : fieldN w = 0#4 ∧ _ = i := by simpa [ite_eq_iff] using h
    exact layoutXYN_eq hop hn
  · cases h; exact layoutXNN_eq hop rfl
  · cases h; exact layoutXNN_eq hop rfl
  · exact encode_of_decodeFamily8 hop h
  · obtain ⟨hn, rfl⟩ : fieldN w = 0#4 ∧ _ = i := by simpa [ite_eq_iff] using h
    exact layoutXYN_eq hop hn
  · cases h; exact layoutA_eq hop
  · cases h; exact layoutA_eq hop
  · cases h; exact layoutXNN_eq hop rfl
  · cases h; exact layoutXYN_eq hop rfl
  · exact encode_of_decodeFamilyE hop h
  · exact encode_of_decodeFamilyF hop h

/-- Settles O2, by the families of `decode`. -/
theorem encodeInvertsDecode : Obligations.EncodeInvertsDecode := fun _ _ => encode_of_decode

/-! ### The words that do not decode -/

/-- The six classes of 30_encoding.md R73, over the fields that `decode` reads. -/
def UnrecognizedClass (w : Word) : Prop :=
  (fieldOp w).toNat = 0x0 ∧ w ≠ 0x00E0#16 ∧ w ≠ 0x00EE#16 ∨
  (fieldOp w).toNat = 0x5 ∧ fieldN w ≠ 0#4 ∨
  (fieldOp w).toNat = 0x8 ∧ (fieldN w).toNat ∈ [0x8, 0x9, 0xA, 0xB, 0xC, 0xD, 0xF] ∨
  (fieldOp w).toNat = 0x9 ∧ fieldN w ≠ 0#4 ∨
  (fieldOp w).toNat = 0xE ∧ (fieldNN w).toNat ∉ [0x9E, 0xA1] ∨
  (fieldOp w).toNat = 0xF ∧ (fieldNN w).toNat ∉ [0x07, 0x0A, 0x15, 0x18, 0x1E, 0x29, 0x33, 0x55, 0x65]

theorem decodeFamily8_error_iff : decodeFamily8 w = .error e ↔
    .unrecognized w = e ∧ (fieldN w).toNat ∈ [0x8, 0x9, 0xA, 0xB, 0xC, 0xD, 0xF] := by
  unfold decodeFamily8
  have hlt := (fieldN w).isLt
  generalize (fieldN w).toNat = n at hlt
  interval_cases n <;> simp

theorem decodeFamilyE_error_iff :
    decodeFamilyE w = .error e ↔ .unrecognized w = e ∧ (fieldNN w).toNat ∉ [0x9E, 0xA1] := by
  simp only [decodeFamilyE, ← BitVec.toNat_inj, BitVec.reduceToNat]
  split_ifs <;> simp [*]

theorem decodeFamilyF_error_iff : decodeFamilyF w = .error e ↔
    .unrecognized w = e ∧ (fieldNN w).toNat ∉ [0x07, 0x0A, 0x15, 0x18, 0x1E, 0x29, 0x33, 0x55, 0x65] := by
  simp only [decodeFamilyF, ← BitVec.toNat_inj, BitVec.reduceToNat]
  split_ifs <;> simp [*]

/-- By the `op` of the word, 0x0 to 0xF in turn: ten families refuse no word, and each of the other
six has its class. -/
theorem decode_error_iff : decode w = .error e ↔ .unrecognized w = e ∧ UnrecognizedClass w := by
  unfold decode UnrecognizedClass
  have hlt := (fieldOp w).isLt
  generalize (fieldOp w).toNat = op at hlt
  interval_cases op
  · by_cases hcls : w = 0x00E0#16 <;> by_cases hret : w = 0x00EE#16 <;> simp [hcls, hret]
  · simp
  · simp
  · simp
  · simp
  · by_cases hn : fieldN w = 0#4 <;> simp [hn]
  · simp
  · simp
  · simp [decodeFamily8_error_iff]
  · by_cases hn : fieldN w = 0#4 <;> simp [hn]
  · simp
  · simp
  · simp
  · simp
  · simp [decodeFamilyE_error_iff]
  · simp [decodeFamilyF_error_iff]

/-- Settles O4. The fields are the quotient and the remainders of the statement. -/
theorem unrecognizedWordClasses : Obligations.UnrecognizedWordClasses := by
  intro w
  have hop : (fieldOp w).toNat = w.toNat / 0x1000 := by
    rw [fieldOp, BitVec.extractLsb'_toNat, Nat.shiftRight_eq_div_pow]
    omega
  have hN : (fieldN w).toNat = w.toNat % 16 := by simp [fieldN]
  have hNN : (fieldNN w).toNat = w.toNat % 256 := by simp [fieldNN]
  simp only [decode_error_iff, exists_eq_left', UnrecognizedClass, ne_eq, ← BitVec.toNat_inj, hop, hN, hNN]
  rfl

/-! ### The opcode map -/

namespace Laws.OpcodeRow

theorem of_instr (i : Instr) : Statement i :=
  i.casesOn cls ret jp call seImm sneImm seReg ldImm addImm ldReg or and xor addReg sub shr subn shl sneReg ldI jpV0 rnd
    drw skp sknp ldVxDt ldVxK ldDt ldSt addI ldF ldB ldMemVx ldVxMem

end Laws.OpcodeRow

/-- Two rows that differ in a bit fixed in both match no word in common. -/
theorem not_both_recognize (hdiff : r.mask &&& q.mask &&& (r.pattern ^^^ q.pattern) ≠ 0) :
    ¬(r.recognizes w = true ∧ q.recognizes w = true) := by
  simp only [OpRow.recognizes, beq_iff_eq]
  rintro ⟨hr, hq⟩
  refine hdiff ?_
  rw [← hr, ← hq]
  ext k hk
  simp only [BitVec.getElem_and, BitVec.getElem_xor]
  cases w[k] <;> cases r.mask[k] <;> simp

/-- A word that matches a row matches that row alone: the rows before and after it are disjoint from it. -/
theorem filter_recognizes_eq_singleton (hmem : r ∈ opcodeTable) (hr : r.recognizes w = true) :
    opcodeTable.filter (·.recognizes w) = [r] := by
  obtain ⟨before, after, htable⟩ := List.append_of_mem hmem
  have hdisjoint := opcodeTable_disjoint
  rw [htable] at hdisjoint ⊢
  obtain ⟨-, hafter, hbefore⟩ := List.pairwise_append.1 hdisjoint
  have hb : before.filter (·.recognizes w) = [] := List.filter_eq_nil_iff.2 fun q hq hqw =>
    not_both_recognize (hbefore q hq r List.mem_cons_self) ⟨hqw, hr⟩
  have ha : after.filter (·.recognizes w) = [] := List.filter_eq_nil_iff.2 fun q hq hqw =>
    not_both_recognize (List.rel_of_pairwise_cons hafter hq) ⟨hr, hqw⟩
  simp [hb, ha, hr]

/-- The pattern of a row decodes, and a row fixes every field that `decode` reads to tell its family's words apart. -/
theorem opcodeTable_fixes_read_fields : ∀ r ∈ opcodeTable,
    (decode r.pattern).isOk = true ∧ fieldOp r.mask = 0xF ∧
    ((fieldOp r.pattern).toNat = 0x0 → r.mask = BitVec.allOnes 16) ∧
    ((fieldOp r.pattern).toNat ∈ [0x5, 0x8, 0x9] → fieldN r.mask = 0xF) ∧
    ((fieldOp r.pattern).toNat ∈ [0xE, 0xF] → fieldNN r.mask = 0xFF) := by
  decide +kernel

theorem extractLsb'_and_of_allOnes {m : Word} {k n : Nat} (hm : m.extractLsb' k n = BitVec.allOnes n) :
    (w &&& m).extractLsb' k n = w.extractLsb' k n := by
  rw [BitVec.extractLsb'_and, hm, BitVec.and_allOnes]

/-- A word in a class of R73 that matches a row puts the row's pattern in that class: the two agree in the fields that
the class reads. -/
theorem UnrecognizedClass.pattern (hw : UnrecognizedClass w) (hmem : r ∈ opcodeTable) (hr : r.recognizes w = true) :
    UnrecognizedClass r.pattern := by
  obtain ⟨-, hopMask, hmask, hNMask, hNNMask⟩ := opcodeTable_fixes_read_fields r hmem
  rw [OpRow.recognizes, beq_iff_eq] at hr
  rw [← hr] at hmask hNMask hNNMask ⊢
  have hop : fieldOp (w &&& r.mask) = fieldOp w := extractLsb'_and_of_allOnes hopMask
  rw [hop] at hmask hNMask hNNMask
  have hwhole (h : (fieldOp w).toNat = 0x0) : w &&& r.mask = w := by rw [hmask h, BitVec.and_allOnes]
  have hN (h : (fieldOp w).toNat ∈ [0x5, 0x8, 0x9]) : fieldN (w &&& r.mask) = fieldN w :=
    extractLsb'_and_of_allOnes (hNMask h)
  have hNN (h : (fieldOp w).toNat ∈ [0xE, 0xF]) : fieldNN (w &&& r.mask) = fieldNN w :=
    extractLsb'_and_of_allOnes (hNNMask h)
  rw [UnrecognizedClass, hop]
  obtain ⟨h, hw⟩ | ⟨h, hw⟩ | ⟨h, hw⟩ | ⟨h, hw⟩ | ⟨h, hw⟩ | ⟨h, hw⟩ := hw
  · simpa [h, hwhole h] using hw
  · simpa [h, hN (by simp [h])] using hw
  · simpa [h, hN (by simp [h])] using hw
  · simpa [h, hN (by simp [h])] using hw
  · simpa [h, hNN (by simp [h])] using hw
  · simpa [h, hNN (by simp [h])] using hw

/-- A word that does not decode matches no row, whose own pattern would not decode either. -/
theorem not_recognizes_of_decode_error (h : decode w = .error e) (hmem : r ∈ opcodeTable) :
    ¬r.recognizes w = true := by
  intro hr
  obtain ⟨hok, -⟩ := opcodeTable_fixes_read_fields r hmem
  obtain ⟨-, hw⟩ := decode_error_iff.1 h
  rw [decode_error_iff.2 ⟨rfl, hw.pattern hmem hr⟩] at hok
  cases hok

/-- Settles O3. A decoded word is the word of its instruction, which matches the row of the instruction's name. -/
theorem decodeFollowsOpcodeMap : Obligations.DecodeFollowsOpcodeMap := by
  refine fun w => ⟨fun i hi => ?_, fun e he => ⟨?_, ?_⟩⟩
  · obtain ⟨r, hmem, hname, hr⟩ := Laws.OpcodeRow.of_instr i
    rw [encode_of_decode hi] at hr
    rw [filter_recognizes_eq_singleton hmem hr, List.map_singleton, hname]
  · exact (decode_error_iff.1 he).1.symm
  · exact List.filter_eq_nil_iff.2 fun _ => not_recognizes_of_decode_error he

/-- Settles O5, by running the decoder on each word. -/
theorem sampleWordsDecode : Obligations.SampleWordsDecode := by
  unfold Obligations.SampleWordsDecode
  decide

end Sys2Proof
end

section
/-! PROOFS. The step and what it answers: the decoded instruction, nothing while the engine is idle, and one of the three
results (40_cycle.md R100 to R111). -/

namespace Sys2Proof.Machine

variable {s t : State} {m : Mode}

/-- Settles O6: the two bytes, high byte first, are the fetched word. -/
theorem stepRunsDecodedInstruction : Obligations.StepRunsDecodedInstruction := fun _ _ hs hd => hs.step_eq_exec hd

/-! ### The result of a step -/

@[simp] theorem Mode.stepResult_eq_ok : m.stepResult = .ok ↔ m = .running := by
  cases m <;> simp [Mode.stepResult]

@[simp] theorem Mode.stepResult_eq_suspended : m.stepResult = .suspended ↔ ∃ x, m = .suspended x := by
  cases m <;> simp [Mode.stepResult]

@[simp] theorem Mode.stepResult_eq_fault {r : FaultRecord} : m.stepResult = .fault r ↔ m = .halted r := by
  cases m <;> simp [Mode.stepResult]

theorem perform_step (ht : step s = .next t) : perform .step s = .next (t, .stepped t.mode.stepResult) := by
  simp [perform, ht]

theorem perform_step_idle (hm : s.mode ≠ .running) : perform .step s = .next (s, .stepped s.mode.stepResult) :=
  perform_step (step_idle hm)

/-- Settles O8. An idle step leaves the mode, from which the result is read. -/
theorem idleStepChangesNothing : Obligations.IdleStepChangesNothing := by
  refine fun s => ⟨fun x hm => ?_, fun r hm => ?_⟩
  · rw [perform_step_idle (by simp [hm]), Mode.stepResult_eq_suspended.2 ⟨x, hm⟩]
  · rw [perform_step_idle (by simp [hm]), Mode.stepResult_eq_fault.2 hm]

theorem step_answers_next (s : State) : ∃ t, step s = .next t := by
  rcases step_cases s with ⟨-, e⟩ | ⟨-, _, -, e⟩ | ⟨-, _, _, -, -, e⟩ | ⟨-, _, i, -, -, e⟩
  · exact ⟨_, e⟩
  · exact ⟨_, e⟩
  · exact ⟨_, e⟩
  · exact e ▸ exec_answers_next i s

/-- A step that leaves the engine running executed the instruction at the pc: an idle engine does not start to run, and a
fault halts. -/
theorem step_executes_of_running (ht : step s = .next t) (hm : t.mode = .running) :
    s.CanFetch ∧ ∃ i, decode (s.wordAt s.pc.toNat) = .ok i ∧ exec i s = .next t := by
  rcases step_cases s with ⟨hidle, e⟩ | ⟨-, _, -, e⟩ | ⟨-, _, _, -, -, e⟩ | ⟨hrun, w, i, hf, hd, e⟩
  · cases e.symm.trans ht
    exact absurd hm hidle
  · cases e.symm.trans ht
    cases hm
  · cases e.symm.trans ht
    cases hm
  · obtain ⟨hpc, halign, rfl⟩ := State.fetch_ok hf
    exact ⟨⟨hrun, hpc, halign⟩, i, hd, e.symm.trans ht⟩

/-- Settles O9. The result names the mode that the step leaves; the mode is running only after an executed instruction. -/
theorem stepAnswersOneOfThreeResults : Obligations.StepAnswersOneOfThreeResults := by
  intro s
  obtain ⟨t, ht⟩ := step_answers_next s
  refine ⟨t, t.mode.stepResult, ht, perform_step ht, Mode.stepResult_eq_ok, fun hm => ?_, fun hok => ?_,
    Mode.stepResult_eq_suspended, fun _ => Mode.stepResult_eq_fault⟩
  · obtain ⟨⟨hrun, -⟩, -⟩ := step_executes_of_running ht hm
    exact hrun
  · obtain ⟨hs, i, hd, hx⟩ := step_executes_of_running ht (Mode.stepResult_eq_ok.1 hok)
    exact ⟨i, hs, hd, hx⟩

end Sys2Proof.Machine
end

section
/-! PROOFS. The display instructions: 00E0 unlights the screen; Dxyn flips exactly the cells its sprite covers, so a second
draw of the same sprite at the same place undoes the first (41_display.md R120 to R127). -/

namespace Sys2Proof.Machine

variable {s t : State} {x y n : Nibble} {c : Fin 64} {r : Fin 32}

/-- Settles O30: the pseudocode replaces the framebuffer of the advanced state by the cleared one. -/
theorem clsUnlightsEveryPixel : Obligations.ClsUnlightsEveryPixel := by
  refine ⟨decode_encode .cls, fun s => ⟨_, rfl, Framebuffer.pixel_clear, rfl, ?_⟩⟩
  simp [onlyChanges_iff, State.readByte]

/-! ### The cells a sprite covers (41_display.md R121 to R124) -/

theorem placePixel_clip_eq_some {a b : Nat} : placePixel .clip a b = some (c, r) ↔ a = c.val ∧ b = r.val := by
  simp only [placePixel, Option.dite_none_right_eq_some, Option.some.injEq, Prod.mk.injEq, Fin.ext_iff]
  constructor
  · rintro ⟨-, h⟩
    exact h
  · rintro ⟨rfl, rfl⟩
    exact ⟨⟨c.isLt, r.isLt⟩, rfl, rfl⟩

theorem placePixel_wrap_eq_some {a b : Nat} : placePixel .wrap a b = some (c, r) ↔ a % 64 = c.val ∧ b % 32 = r.val := by
  simp [placePixel, Fin.ext_iff]

theorem State.spriteBit_eq_true {n dc dr : Nat} :
    s.spriteBit n dc dr = true ↔ dc < 8 ∧ dr < n ∧ (s.readByte (s.I.toNat + dr)).getLsbD (7 - dc) = true := by
  simp [State.spriteBit, and_assoc]

/-- The rows of a sprite of `n` rows: the bytes from `I` up (41_display.md R122). -/
def State.spriteRows (s : State) (n : Nat) : List Byte := (List.range n).map fun k => s.readByte (s.I.toNat + k)

@[simp] theorem State.length_spriteRows (n : Nat) : (s.spriteRows n).length = n := by simp [State.spriteRows]

/-- The cells drawn are those where a 1 bit of the sprite is placed. -/
theorem mem_spriteCells_spriteRows {m : EdgeMode} {c0 r0 n : Nat} {p : Fin 64 × Fin 32} :
    p ∈ spriteCells m c0 r0 (s.spriteRows n) ↔
      ∃ dc dr, s.spriteBit n dc dr = true ∧ placePixel m (c0 + dc) (r0 + dr) = some p := by
  simp only [mem_spriteCells, State.spriteBit_eq_true, State.length_spriteRows]
  constructor
  · rintro ⟨dr, hdr, dc, hdc, hbit, hp⟩
    exact ⟨dc, dr, ⟨hdc, hdr, by simpa [State.spriteRows] using hbit⟩, hp⟩
  · rintro ⟨dc, dr, ⟨hdc, hdr, hbit⟩, hp⟩
    exact ⟨dr, hdr, dc, hdc, by simpa [State.spriteRows] using hbit, hp⟩

/-- A cell is covered exactly when a 1 bit of the sprite is placed there: the cell's distance from the start position,
modulo the screen under `wrap`, is the only column and row of the sprite that can be. -/
theorem State.spriteCovers_eq_true :
    s.spriteCovers x y n c r = true ↔ ∃ dc dr, s.spriteBit n.toNat dc dr = true ∧
      placePixel s.cfg.edgeMode ((s.reg x).toNat % 64 + dc) ((s.reg y).toNat % 32 + dr) = some (c, r) := by
  unfold State.spriteCovers
  cases s.cfg.edgeMode with
  | clip =>
    simp only [placePixel_clip_eq_some, Bool.and_eq_true, decide_eq_true_eq]
    constructor
    · rintro ⟨⟨hc, hr⟩, hbit⟩
      exact ⟨_, _, hbit, by omega, by omega⟩
    · rintro ⟨dc, dr, hbit, hc, hr⟩
      rw [← hc, ← hr, Nat.add_sub_cancel_left, Nat.add_sub_cancel_left]
      exact ⟨⟨Nat.le_add_right _ _, Nat.le_add_right _ _⟩, hbit⟩
  | wrap =>
    simp only [placePixel_wrap_eq_some]
    constructor
    · intro hbit
      exact ⟨_, _, hbit, by omega, by omega⟩
    · rintro ⟨dc, dr, hbit, hc, hr⟩
      obtain ⟨hdc, hdr, -⟩ := State.spriteBit_eq_true.1 hbit
      have hn := n.isLt
      have ec : (c.val + 64 - (s.reg x).toNat % 64) % 64 = dc := by omega
      have er : (r.val + 32 - (s.reg y).toNat % 32) % 32 = dr := by omega
      rwa [ec, er]

/-! ### One draw -/

/-- The state a completed Dxyn leaves. -/
def State.afterDraw (s : State) (x y n : Nibble) : State :=
  s.advance.drawSprite ((s.reg x).toNat % 64) ((s.reg y).toNat % 32) (s.spriteRows n.toNat)

theorem exec_drw_inRange (h : n.toNat = 0 ∨ s.I.toNat + n.toNat - 1 ≤ 0xFFF) :
    exec (.drw x y n) s = .next (s.afterDraw x y n) := by
  have hread : s.advance.memRead s.advance.dataAddr n.toNat = .ok (s.spriteRows n.toNat) := by
    rw [State.memRead_eq, if_pos (by simp only [State.dataAddr, State.advance_I]; omega)]
    rfl
  unfold exec execDrw
  exact runInstr_ok s (by simp only [hread]; rfl)

theorem exec_drw_pastEnd (hn : 1 ≤ n.toNat) (h : s.I.toNat + n.toNat - 1 > 0xFFF) :
    Faults (.drw x y n) s .outOfBoundsAccess := by
  have hread : s.advance.memRead s.advance.dataAddr n.toNat = .error .outOfBoundsAccess := by
    rw [State.memRead_eq, if_neg (by simp only [State.dataAddr, State.advance_I]; omega)]
  unfold Faults exec execDrw
  exact runInstr_error s (by simp only [hread])

/-- A sprite has at most 15 rows, so it places no two bits on the same cell. -/
theorem State.nodup_spriteCells_spriteRows (m : EdgeMode) (c0 r0 : Nat) :
    (spriteCells m c0 r0 (s.spriteRows n.toNat)).Nodup :=
  nodup_spriteCells _ _ _ _ (by have := n.isLt; rw [State.length_spriteRows]; omega)

/-- A draw flips the covered cells and no other. -/
theorem State.pixel_afterDraw :
    (s.afterDraw x y n).fb.pixel c r = (s.fb.pixel c r ^^ s.spriteCovers x y n c r) := by
  refine (pixel_drawCells _ _ (s.nodup_spriteCells_spriteRows _ _ _) c r).trans (congrArg _ ?_)
  rw [Bool.eq_iff_iff, decide_eq_true_iff, mem_spriteCells_spriteRows, State.spriteCovers_eq_true]
  rfl

/-- VF ends as 1 exactly when a covered cell was lit; every other register is as before. -/
theorem State.reg_afterDraw (k : Nibble) : (s.afterDraw x y n).reg k =
    if k = 15 then if ∃ c r, s.spriteCovers x y n c r = true ∧ s.fb.pixel c r = true then 1 else 0 else s.reg k := by
  refine (State.reg_setFlag _ _ k).trans (if_congr Iff.rfl (if_congr ?_ rfl rfl) rfl)
  rw [hit_drawCells _ _ (s.nodup_spriteCells_spriteRows _ _ _), List.any_eq_true, Prod.exists]
  simp only [mem_spriteCells_spriteRows, State.spriteCovers_eq_true]
  rfl

theorem State.onlyChanges_afterDraw : OnlyChanges [.fb, .V, .pc] s (s.afterDraw x y n) := by
  simp [onlyChanges_iff, State.afterDraw, State.readByte]

/-- Settles O31. A draw whose rows lie inside memory leaves `State.afterDraw`; the read past the end faults. -/
theorem drawFlipsCoveredCells : Obligations.DrawFlipsCoveredCells := by
  refine fun s x y n => ⟨decode_encode (.drw x y n), fun h => ?_, exec_drw_pastEnd⟩
  refine ⟨_, exec_drw_inRange h, fun _ _ => State.pixel_afterDraw, ?_, fun k hk => ?_, rfl, State.onlyChanges_afterDraw⟩
  · rw [State.reg_afterDraw, if_pos rfl]
  · rw [State.reg_afterDraw, if_neg hk]

/-! ### Two draws (41_display.md R127) -/

/-- Coverage is read from the two registers, the configuration, `I` and memory, of which a draw writes VF at most. -/
theorem State.spriteCovers_afterDraw (hx : x ≠ 15) (hy : y ≠ 15) :
    (s.afterDraw x y n).spriteCovers x y n c r = s.spriteCovers x y n c r := by
  simp only [State.spriteCovers, State.reg_afterDraw, if_neg hx, if_neg hy]
  rfl

/-- A piece that ends as it began can be struck off the list of those that may have changed. -/
theorem OnlyChanges.of_same {p : Part} {parts : List Part} (h : OnlyChanges (p :: parts) s t) (hp : p.Same s t) :
    OnlyChanges parts s t := by
  intro q hq
  by_cases e : q = p
  · exact e ▸ hp
  · exact h q (by simp [e, hq])

/-- Settles O32. The second draw covers the cells of the first and flips each of them back; where it covers a cell, that cell
is lit before it exactly when it was unlit before the first. -/
theorem secondDrawRestoresFramebuffer : Obligations.SecondDrawRestoresFramebuffer := by
  intro s x y n hx hy h
  have hfb : ((s.afterDraw x y n).afterDraw x y n).fb = s.fb := Framebuffer.pixel_ext fun c r => by
    rw [State.pixel_afterDraw, State.pixel_afterDraw, State.spriteCovers_afterDraw hx hy, Bool.xor_assoc, Bool.xor_self,
      Bool.xor_false]
  refine ⟨_, _, exec_drw_inRange h, exec_drw_inRange h, hfb, ?_,
    (State.onlyChanges_afterDraw.trans State.onlyChanges_afterDraw).of_same hfb⟩
  rw [State.reg_afterDraw, if_pos rfl]
  refine if_congr (exists_congr fun c => exists_congr fun r => ?_) rfl rfl
  rw [State.spriteCovers_afterDraw hx hy, State.pixel_afterDraw]
  exact and_congr_right fun hcov => by simp [hcov]

end Sys2Proof.Machine
end

section
/-! PROOFS. The control transfers (42_control_flow.md R140 to R143): the jumps set the pc, a call pushes the address after
it, and a return pops it, so that a return right after a call comes back. -/

namespace Sys2Proof.Machine

variable {s : State} {i : Instr} {nnn : Addr12} {a : Word}

/-! ### The jumps -/

theorem goesTo_of_exec (h : exec i s = .next (s.advance.setPc a)) : GoesTo i s a :=
  ⟨_, h, rfl, by simp [onlyChanges_iff]⟩

theorem exec_jp (nnn : Addr12) (s : State) : exec (.jp nnn) s = .next (s.advance.setPc (zext16 nnn)) := rfl

theorem exec_jpV0 (nnn : Addr12) (s : State) :
    exec (.jpV0 nnn) s = .next (s.advance.setPc (zext16 nnn + (s.reg 0).setWidth 16)) := rfl

theorem ofNat_toNat_eq_zext16 (nnn : Addr12) : BitVec.ofNat 16 nnn.toNat = zext16 nnn := BitVec.ofNat_toNat 16 nnn

@[simp] theorem toNat_zext16 (nnn : Addr12) : (zext16 nnn).toNat = nnn.toNat :=
  BitVec.toNat_setWidth_of_le (by decide)

/-- Settles O34. Both targets are the model's zero-extended `nnn`, for Bnnn with V0 added in 16 bits. -/
theorem jumpsSetPc : Obligations.JumpsSetPc := by
  refine fun s nnn => ⟨decode_encode (.jp nnn), decode_encode (.jpV0 nnn), ?_, ?_⟩
  · rw [ofNat_toNat_eq_zext16]
    exact goesTo_of_exec (exec_jp nnn s)
  · rw [BitVec.ofNat_add, ofNat_toNat_eq_zext16, BitVec.ofNat_toNat]
    exact goesTo_of_exec (exec_jpV0 nnn s)

/-- Settles O14. The step executes the jump, which sets the pc to the address it already holds. -/
theorem jumpToSelfLoopsUnchanged : Obligations.JumpToSelfLoopsUnchanged := by
  rintro s e ⟨-, hpc, hd⟩ hs
  have haddr : s.pc.toNat = e.toNat := by rw [hpc, toNat_zext16]
  calc step s = exec (.jp e) s := hs.step_eq_exec (by rwa [haddr])
    _ = .next (s.advance.setPc s.pc) := by rw [exec_jp, hpc]
    _ = .next s := rfl

/-! ### The call and the return -/

/-- The state a completed 2nnn leaves. -/
def State.callTo (s : State) (nnn : Addr12) (h : s.sp.val < 16) : State :=
  { s with stack := s.stack.set s.sp.val (s.pc + 2) h, sp := ⟨s.sp.val + 1, by omega⟩, pc := zext16 nnn }

/-- The state a completed 00EE leaves. -/
def State.returnToCaller (s : State) (h : 0 < s.sp.val) : State :=
  { s with sp := ⟨s.sp.val - 1, by omega⟩, pc := s.stack[s.sp.val - 1]'(by omega) }

/-- A call pushes the advanced pc, the address after it. -/
theorem exec_call_of_lt (h : s.sp.val < 16) : exec (.call nnn) s = .next (s.callTo nnn h) := by
  have hpush : s.advance.push s.advance.pc =
      .ok { s.advance with stack := s.stack.set s.sp.val (s.pc + 2) h, sp := ⟨s.sp.val + 1, by omega⟩ } := dif_pos h
  unfold exec execCall
  exact runInstr_ok s (by simp only [hpush]; rfl)

theorem exec_call_full (h : s.sp.val = 16) : Faults (.call nnn) s .stackOverflow := by
  have hpush : s.advance.push s.advance.pc = .error .stackOverflow := dif_neg (by simp [h])
  unfold Faults exec execCall
  exact runInstr_error s (by simp only [hpush])

theorem exec_ret (s : State) : exec .ret s = runInstr .ret s State.popToPc := rfl

theorem exec_ret_of_pos (h : 0 < s.sp.val) : exec .ret s = .next (s.returnToCaller h) :=
  (exec_ret s).trans (runInstr_ok s (dif_pos h))

theorem exec_ret_empty (h : s.sp.val = 0) : Faults .ret s .stackUnderflow := by
  rw [Faults, exec_ret]
  exact runInstr_error s (dif_neg (by simp [h]))

theorem State.onlyChanges_callTo (h : s.sp.val < 16) : OnlyChanges [.sp, .stack, .pc] s (s.callTo nnn h) := by
  simp [onlyChanges_iff, State.callTo, State.readByte]

theorem State.onlyChanges_returnToCaller (h : 0 < s.sp.val) : OnlyChanges [.sp, .pc] s (s.returnToCaller h) := by
  simp [onlyChanges_iff, State.returnToCaller, State.readByte]

/-- Settles O33, by the two cases of the depth. -/
theorem retPopsIntoPc : Obligations.RetPopsIntoPc :=
  ⟨decode_encode .ret, fun _ =>
    ⟨fun h => ⟨_, exec_ret_of_pos h, rfl, rfl, State.onlyChanges_returnToCaller h⟩, exec_ret_empty⟩⟩

/-- Settles O35, by the two cases of the depth. A call writes the entry at the depth and no other. -/
theorem callPushesReturnAddress : Obligations.CallPushesReturnAddress := by
  refine fun s nnn => ⟨decode_encode (.call nnn), fun h => ?_, exec_call_full⟩
  refine ⟨_, exec_call_of_lt h, rfl, fun k => ?_, ?_, State.onlyChanges_callTo h⟩
  · simp [State.callTo, Vector.getElem_set, eq_comm]
  · exact toNat_zext16 nnn

/-- The return pops the entry the call pushed: only the pc, now after the call, and that entry, dead again, differ. -/
theorem State.returnToCaller_callTo (h : s.sp.val < 16) :
    (s.callTo nnn h).returnToCaller (Nat.succ_pos _) =
      { s with stack := s.stack.set s.sp.val (s.pc + 2) h, pc := s.pc + 2 } := by
  simp [State.returnToCaller, State.callTo]

/-- Settles O36. The entry the call wrote lies above every live one. -/
theorem callThenReturnComesBack : Obligations.CallThenReturnComesBack := by
  intro s nnn h
  refine ⟨_, _, exec_call_of_lt h, exec_ret_of_pos (Nat.succ_pos _), ?_⟩
  rw [State.returnToCaller_callTo]
  refine ⟨rfl, rfl, fun k hk => Vector.getElem_set_ne h _ hk.ne', ?_⟩
  simp [onlyChanges_iff, State.readByte]

end Sys2Proof.Machine
end

section
/-! PROOFS. The conditional skips (43_skips.md R160 to R165): each leaves the pc two or four past its own address; of the key
skips, one whose register is above 15 faults instead. -/

namespace Sys2Proof.Machine

variable {s : State} {i : Instr} {w : Word} {kind : FaultKind}

/-! ### Words given as fixed bits and operands -/

theorem decode_of_encode_eq (h : encode i = w) : decode w = .ok i := h ▸ decode_encode i

/-- A word of layout `X` is its fixed bits and `x`. -/
theorem layoutXNN_eq_or_atX (op x : Nibble) (nn : Byte) :
    layoutXNN op x nn = op.setWidth 16 <<< 12 ||| nn.setWidth 16 ||| atX x :=
  RightCommutative.right_comm (op := HOr.hOr) _ _ _

/-- A word of layout `XY` is its fixed bits, `x` and `y`. -/
theorem layoutXYN_eq_or_atX_or_atY (op x y n : Nibble) :
    layoutXYN op x y n = op.setWidth 16 <<< 12 ||| n.setWidth 16 ||| atX x ||| atY y := by
  have hcomm : ∀ a b c : Word, a ||| b ||| c = a ||| c ||| b := RightCommutative.right_comm
  rw [layoutXYN, hcomm _ _ (n.setWidth 16), hcomm _ _ (n.setWidth 16)]
  rfl

/-- Families 5 and 9 have one row each, whose low nibble is 0 (30_encoding.md R73). -/
theorem decode_layoutXYN_unrecognized {op n : Nibble} (hop : op = 0x5 ∨ op = 0x9) (x y : Nibble) (hn : n ≠ 0) :
    decode (layoutXYN op x y n) = .error (.unrecognized (layoutXYN op x y n)) := by
  refine decode_error_iff.2 ⟨rfl, ?_⟩
  rcases hop with rfl | rfl <;> simpa [UnrecognizedClass] using hn

/-! ### A skip -/

/-- A skip on a condition that says `p` goes past the next word exactly when `p` holds. -/
theorem goesTo_of_exec_skipIf {p : Prop} [Decidable p] {c : Bool} (h : exec i s = .next (s.advance.skipIf c))
    (hc : c = true ↔ p) : GoesTo i s (if p then s.pc + 4 else s.pc + 2) := by
  refine ⟨_, h, ?_, by simp [onlyChanges_iff]⟩
  rw [State.skipIf_pc]
  refine if_congr hc ?_ rfl
  rw [State.advance_pc, BitVec.add_assoc]
  rfl

theorem exec_seImm (x : Nibble) (nn : Byte) (s : State) :
    exec (.seImm x nn) s = .next (s.advance.skipIf (s.reg x == nn)) := rfl

theorem exec_sneImm (x : Nibble) (nn : Byte) (s : State) :
    exec (.sneImm x nn) s = .next (s.advance.skipIf (s.reg x != nn)) := rfl

theorem exec_seReg (x y : Nibble) (s : State) :
    exec (.seReg x y) s = .next (s.advance.skipIf (s.reg x == s.reg y)) := rfl

theorem exec_sneReg (x y : Nibble) (s : State) :
    exec (.sneReg x y) s = .next (s.advance.skipIf (s.reg x != s.reg y)) := rfl

/-- Settles O37: the condition of each skip is the Boolean comparison of the register with the immediate. -/
theorem immediateSkips : Obligations.ImmediateSkips := fun s x nn =>
  ⟨decode_encode (.seImm x nn), decode_encode (.sneImm x nn),
    goesTo_of_exec_skipIf (exec_seImm x nn s) beq_iff_eq, goesTo_of_exec_skipIf (exec_sneImm x nn s) bne_iff_ne⟩

/-- Settles O38: the condition of each skip is the Boolean comparison of the two registers. -/
theorem registerSkips : Obligations.RegisterSkips := fun s x y =>
  ⟨decode_of_encode_eq (layoutXYN_eq_or_atX_or_atY 0x5 x y 0x0),
    decode_of_encode_eq (layoutXYN_eq_or_atX_or_atY 0x9 x y 0x0),
    fun _ hn => ⟨_, _, decode_layoutXYN_unrecognized (op := 0x5) (.inl rfl) x y hn,
      decode_layoutXYN_unrecognized (op := 0x9) (.inr rfl) x y hn⟩,
    goesTo_of_exec_skipIf (exec_seReg x y s) beq_iff_eq, goesTo_of_exec_skipIf (exec_sneReg x y s) bne_iff_ne⟩

/-! ### The key skips -/

theorem State.regIndex_of_toNat_eq {x k : Nibble} (h : (s.reg x).toNat = k.toNat) : s.regIndex x = .ok k := by
  have hk := k.isLt
  rw [State.regIndex, if_neg (by omega), h, BitVec.ofNat_toNat, BitVec.setWidth_eq]

theorem State.regIndex_of_gt {x : Nibble} (h : (s.reg x).toNat > 15) : s.regIndex x = .error .operandOutOfRange :=
  if_pos h

@[simp] theorem State.regIndex_advance (x : Nibble) : s.advance.regIndex x = s.regIndex x := rfl

theorem exec_skp_of_regIndex {x k : Nibble} (h : s.regIndex x = .ok k) :
    exec (.skp x) s = .next (s.advance.skipIf (s.key k)) := by
  unfold exec execSkp
  exact runInstr_ok s (by simp only [State.regIndex_advance, h]; rfl)

theorem exec_sknp_of_regIndex {x k : Nibble} (h : s.regIndex x = .ok k) :
    exec (.sknp x) s = .next (s.advance.skipIf (!s.key k)) := by
  unfold exec execSknp
  exact runInstr_ok s (by simp only [State.regIndex_advance, h]; rfl)

theorem faults_skp_of_regIndex {x : Nibble} (h : s.regIndex x = .error kind) : Faults (.skp x) s kind := by
  unfold Faults exec execSkp
  exact runInstr_error s (by simp only [State.regIndex_advance, h])

theorem faults_sknp_of_regIndex {x : Nibble} (h : s.regIndex x = .error kind) : Faults (.sknp x) s kind := by
  unfold Faults exec execSknp
  exact runInstr_error s (by simp only [State.regIndex_advance, h])

/-- Settles O39, by the two cases of the register as an index. -/
theorem keySkips : Obligations.KeySkips := by
  refine fun s x => ⟨decode_of_encode_eq (layoutXNN_eq_or_atX 0xE x 0x9E),
    decode_of_encode_eq (layoutXNN_eq_or_atX 0xE x 0xA1), fun k hk => ?_, fun hx => ?_⟩
  · have hkey := State.regIndex_of_toNat_eq hk
    exact ⟨goesTo_of_exec_skipIf (exec_skp_of_regIndex hkey) Iff.rfl,
      goesTo_of_exec_skipIf (exec_sknp_of_regIndex hkey) (by simp)⟩
  · have hfault := State.regIndex_of_gt hx
    exact ⟨faults_skp_of_regIndex hfault, faults_sknp_of_regIndex hfault⟩

end Sys2Proof.Machine
end

section
/-! PROOFS. The arithmetic and logic instructions (44_alu.md R180 to R191): 6xnn to 8xy3 write a register and nothing else,
8xy4 to 8xyE a register and then VF as their flag, and Cxnn a register with a masked draw. -/

namespace Sys2Proof.Machine

variable {s : State} {i : Instr} {x y : Nibble}

/-! ### A register write -/

theorem writesReg_of_exec {v : Byte} (h : exec i s = .next (s.advance.setReg x v)) : WritesReg i s x v := by
  refine ⟨_, h, by simp, fun k hk => ?_, rfl, by simp [onlyChanges_iff]⟩
  rw [State.reg_setReg, if_neg hk, State.reg_advance]

theorem exec_ldImm (x : Nibble) (nn : Byte) (s : State) : exec (.ldImm x nn) s = .next (s.advance.setReg x nn) := rfl

theorem exec_addImm (x : Nibble) (nn : Byte) (s : State) :
    exec (.addImm x nn) s = .next (s.advance.setReg x (s.reg x + nn)) := rfl

theorem exec_ldReg (x y : Nibble) (s : State) : exec (.ldReg x y) s = .next (s.advance.setReg x (s.reg y)) := rfl

theorem exec_or (x y : Nibble) (s : State) : exec (.or x y) s = .next (s.advance.setReg x (s.reg x ||| s.reg y)) := rfl

theorem exec_and (x y : Nibble) (s : State) : exec (.and x y) s = .next (s.advance.setReg x (s.reg x &&& s.reg y)) := rfl

theorem exec_xor (x y : Nibble) (s : State) : exec (.xor x y) s = .next (s.advance.setReg x (s.reg x ^^^ s.reg y)) := rfl

/-- Settles O40: an 8-bit addition is the addition of the numbers modulo 256. -/
theorem immediateLoadAndAdd : Obligations.ImmediateLoadAndAdd := by
  refine fun s x nn => ⟨decode_encode (.ldImm x nn), decode_encode (.addImm x nn),
    writesReg_of_exec (exec_ldImm x nn s), ?_⟩
  have hsum : BitVec.ofNat 8 (((s.reg x).toNat + nn.toNat) % 256) = s.reg x + nn := BitVec.eq_of_toNat_eq (by simp)
  exact hsum ▸ writesReg_of_exec (exec_addImm x nn s)

/-- A word of family 8 is its two fixed nibbles, `x` and `y`. -/
theorem decode_family8 (n : Nibble) (h : encode i = layoutXYN 0x8 x y n) :
    decode ((0x8 : Nibble).setWidth 16 <<< 12 ||| n.setWidth 16 ||| atX x ||| atY y) = .ok i :=
  decode_of_encode_eq (h.trans (layoutXYN_eq_or_atX_or_atY 0x8 x y n))

/-- Settles O41: the operation on the bytes is that on their numbers. -/
theorem copyAndBitwise : Obligations.CopyAndBitwise := by
  intro s x y
  rw [← BitVec.toNat_or, ← BitVec.toNat_and, ← BitVec.toNat_xor]
  simp only [BitVec.ofNat_toNat, BitVec.setWidth_eq]
  exact ⟨decode_family8 0x0 rfl, decode_family8 0x1 rfl, decode_family8 0x2 rfl,
    decode_family8 0x3 rfl, writesReg_of_exec (exec_ldReg x y s), writesReg_of_exec (exec_or x y s),
    writesReg_of_exec (exec_and x y s), writesReg_of_exec (exec_xor x y s)⟩

/-! ### A register write and then the flag (40_cycle.md R108) -/

/-- The flag is written last, so it is in VF whatever `x` is. -/
theorem writesRegAndFlag_of_exec {r : Byte × Bool} {v : Byte} {flag : Prop} [Decidable flag]
    (h : exec i s = .next (s.advance.setRegThenFlag x r)) (hv : r.1 = v) (hflag : r.2 = true ↔ flag) :
    WritesRegAndFlag i s x v flag := by
  refine ⟨_, h, ?_, fun hx => ?_, fun k hkx hk => ?_, rfl, by simp [onlyChanges_iff, State.readByte]⟩
  · rw [State.reg_setRegThenFlag, if_pos rfl, flagByte]
    exact if_congr hflag rfl rfl
  · rw [State.reg_setRegThenFlag, if_neg hx, if_pos rfl, hv]
  · rw [State.reg_setRegThenFlag, if_neg hk, if_neg hkx, State.reg_advance]

theorem exec_addReg (x y : Nibble) (s : State) :
    exec (.addReg x y) s = .next (s.advance.setRegThenFlag x (addCarry (s.reg x) (s.reg y))) := rfl

theorem exec_sub (x y : Nibble) (s : State) :
    exec (.sub x y) s = .next (s.advance.setRegThenFlag x (subNoBorrow (s.reg x) (s.reg y))) := rfl

theorem exec_subn (x y : Nibble) (s : State) :
    exec (.subn x y) s = .next (s.advance.setRegThenFlag x (subNoBorrow (s.reg y) (s.reg x))) := rfl

theorem exec_shr (x y : Nibble) (s : State) :
    exec (.shr x y) s = .next (s.advance.setRegThenFlag x (shiftRight (s.reg x))) := rfl

theorem exec_shl (x y : Nibble) (s : State) :
    exec (.shl x y) s = .next (s.advance.setRegThenFlag x (shiftLeft (s.reg x))) := rfl

@[simp] theorem addCarry_fst (a b : Byte) : (addCarry a b).1 = BitVec.ofNat 8 ((a.toNat + b.toNat) % 256) := rfl

@[simp] theorem addCarry_snd (a b : Byte) : (addCarry a b).2 = true ↔ a.toNat + b.toNat > 255 := decide_eq_true_iff

@[simp] theorem subNoBorrow_fst (a b : Byte) : (subNoBorrow a b).1 = a - b := by
  apply BitVec.eq_of_toNat_eq
  have hb := b.isLt
  simp only [subNoBorrow, BitVec.toNat_ofNat, BitVec.toNat_sub]
  omega

@[simp] theorem subNoBorrow_snd (a b : Byte) : (subNoBorrow a b).2 = true ↔ a.toNat ≥ b.toNat := decide_eq_true_iff

@[simp] theorem shiftRight_fst (a : Byte) : (shiftRight a).1 = BitVec.ofNat 8 (a.toNat / 2) := by
  apply BitVec.eq_of_toNat_eq
  have ha := a.isLt
  simp only [shiftRight, BitVec.toNat_ofNat, BitVec.toNat_ushiftRight, Nat.shiftRight_eq_div_pow]
  omega

@[simp] theorem shiftRight_snd (a : Byte) : (shiftRight a).2 = true ↔ a.toNat % 2 = 1 := by
  simp [shiftRight, BitVec.getLsbD]

@[simp] theorem shiftLeft_fst (a : Byte) : (shiftLeft a).1 = BitVec.ofNat 8 (a.toNat * 2 % 256) := by
  apply BitVec.eq_of_toNat_eq
  simp [shiftLeft, Nat.shiftLeft_eq]

/-- Bit 7 is the most significant bit of a byte. -/
@[simp] theorem shiftLeft_snd (a : Byte) : (shiftLeft a).2 = true ↔ a.toNat ≥ 128 := by
  have hmsb : (shiftLeft a).2 = a.msb := (BitVec.msb_eq_getLsbD_last a).symm
  rw [hmsb, BitVec.msb_eq_decide, decide_eq_true_iff]

/-- Settles O42: the model's sum and carry are those of the statement. -/
theorem addSetsCarry : Obligations.AddSetsCarry := fun s x y =>
  ⟨decode_family8 0x4 rfl, writesRegAndFlag_of_exec (exec_addReg x y s) (addCarry_fst _ _) (addCarry_snd _ _)⟩

/-- Settles O43: 8xy7 is the subtraction of 8xy5 with its operands exchanged. -/
theorem subtractionsSetNoBorrow : Obligations.SubtractionsSetNoBorrow := fun s x y =>
  ⟨decode_family8 0x5 rfl, decode_family8 0x7 rfl,
    writesRegAndFlag_of_exec (exec_sub x y s) (subNoBorrow_fst _ _) (subNoBorrow_snd _ _),
    writesRegAndFlag_of_exec (exec_subn x y s) (subNoBorrow_fst _ _) (subNoBorrow_snd _ _)⟩

/-- Settles O44: each shift halves or doubles the register's number, and the bit shifted out is its parity or its size. -/
theorem shiftsSetBitShiftedOut : Obligations.ShiftsSetBitShiftedOut := fun s x y =>
  ⟨decode_family8 0x6 rfl, decode_family8 0xE rfl,
    writesRegAndFlag_of_exec (exec_shr x y s) (shiftRight_fst _) (shiftRight_snd _),
    writesRegAndFlag_of_exec (exec_shl x y s) (shiftLeft_fst _) (shiftLeft_snd _)⟩

/-! ### The draw -/

/-- The state a Cxnn leaves. -/
def State.afterRnd (s : State) (x : Nibble) (nn : Byte) : State :=
  { s.advance with draws := s.draws + 1 }.setReg x (Config.rand8 s.draws &&& nn)

theorem exec_rnd (x : Nibble) (nn : Byte) (s : State) : exec (.rnd x nn) s = .next (s.afterRnd x nn) := rfl

theorem State.reg_afterRnd (x : Nibble) (nn : Byte) (k : Nibble) :
    (s.afterRnd x nn).reg k = if k = x then Config.rand8 s.draws &&& nn else s.reg k := State.reg_setReg _ x k _

/-- Settles O45: a bit clear in the mask is clear in the masked draw. -/
theorem randomMaskedByImmediate : Obligations.RandomMaskedByImmediate := by
  intro s x nn
  have hx : (s.afterRnd x nn).reg x = Config.rand8 s.draws &&& nn := by rw [State.reg_afterRnd, if_pos rfl]
  refine ⟨decode_encode (.rnd x nn), _, exec_rnd x nn s, hx, fun b hb => ?_, fun k hk => ?_, rfl, rfl, ?_⟩
  · rw [hx, BitVec.getLsbD_and, hb, Bool.and_false]
  · rw [State.reg_afterRnd, if_neg hk]
  · simp [onlyChanges_iff, State.afterRnd, State.readByte]

end Sys2Proof.Machine
end

section
/-! PROOFS. The index-register and memory instructions (45_index_memory.md R220 to R225): Annn, Fx1E and Fx29 set `I`;
Fx33 and Fx55 store bytes from `I` up, Fx65 loads them; an access past 0xFFF faults, and so does a write into the protected
reserved area. -/

namespace Sys2Proof.Machine

variable {s : State} {i : Instr} {x : Nibble} {kind : FaultKind}

/-! ### The two faults of a store of `n + 1` bytes from `I` up (20_memory.md R56) -/

section Store

variable {bytes : State → List Byte} {n : Nat}
variable (hi : exec i s = runInstr i s fun u => u.memWrite u.dataAddr (bytes u)) (hlen : (bytes s.advance).length = n + 1)
include hi hlen

theorem faults_store_pastEnd (hend : s.I.toNat + n > 0xFFF) : Faults i s .outOfBoundsAccess := by
  have hb := List.ne_nil_of_length_eq_add_one hlen
  have hrange : s.I.toNat + (bytes s.advance).length > 0x1000 := by omega
  exact hi.trans (runInstr_error s ((State.memWrite_eq _ _ _ hb).trans (if_pos hrange)))

/-- The bounds are checked first, so the range must lie inside memory. -/
theorem faults_store_reserved (hend : s.I.toNat + n ≤ 0xFFF) (hprot : s.cfg.protectReserved = true)
    (hlow : s.I.toNat ≤ 0x1FF) : Faults i s .reservedWrite := by
  have hb := List.ne_nil_of_length_eq_add_one hlen
  have hrange : ¬s.I.toNat + (bytes s.advance).length > 0x1000 := by omega
  exact hi.trans (runInstr_error s
    ((State.memWrite_eq _ _ _ hb).trans ((if_neg hrange).trans (if_pos ⟨hprot, hlow⟩))))

end Store

/-! ### Bytes read back after a store -/

theorem State.readByte_storeBytes_inside (s : State) (a : Nat) {bs : List Byte} {k : Nat} (hk : k < bs.length) :
    (s.storeBytes a bs).readByte (a + k) = bs[k] := by
  rw [State.readByte_storeBytes, dif_pos (by omega)]
  simp only [Nat.add_sub_cancel_left]

theorem State.readByte_storeBytes_outside {a b : Nat} {bs : List Byte} (hb : b < a ∨ a + bs.length ≤ b) :
    (s.storeBytes a bs).readByte b = s.readByte b := by
  rw [State.readByte_storeBytes, dif_neg (by omega)]

theorem onlyChanges_storeBytes_advance (a : Nat) (bs : List Byte) :
    OnlyChanges [.mem, .pc] s (s.advance.storeBytes a bs) := by
  simp [onlyChanges_iff]

/-! ### The decimal digits (45_index_memory.md R223) -/

/-- A digit is less than 256, so it is its byte's number. -/
theorem toNat_decimalDigits (v : Byte) :
    (decimalDigits v)[0].toNat = v.toNat / 100 ∧ (decimalDigits v)[1].toNat = v.toNat / 10 % 10 ∧
      (decimalDigits v)[2].toNat = v.toNat % 10 := by
  have hv := v.isLt
  simp only [decimalDigits, List.getElem_cons_zero, List.getElem_cons_succ, BitVec.toNat_ofNat]
  omega

theorem exec_ldB (x : Nibble) (s : State) :
    exec (.ldB x) s = runInstr (.ldB x) s fun u => u.memWrite u.dataAddr (decimalDigits (u.reg x)) := rfl

theorem exec_ldB_inRange (hend : s.I.toNat + 2 ≤ 0xFFF) (hres : s.cfg.protectReserved = true → 0x200 ≤ s.I.toNat) :
    exec (.ldB x) s = .next (s.advance.storeBytes s.I.toNat (decimalDigits (s.reg x))) := by
  have hrange : s.I.toNat + (decimalDigits (s.reg x)).length ≤ 0x1000 := by
    rw [length_decimalDigits]
    omega
  exact (exec_ldB x s).trans
    (runInstr_ok s (State.memWrite_inRange (s := s.advance) (List.cons_ne_nil _ _) hrange hres))

/-- Settles O48. The three digits are read back from the store; the write of three bytes gives the two faults. -/
theorem decimalDigitsStored : Obligations.DecimalDigitsStored := by
  intro s x
  have hlen : (decimalDigits (s.reg x)).length = 2 + 1 := length_decimalDigits _
  refine ⟨decode_of_encode_eq (layoutXNN_eq_or_atX 0xF x 0x33), fun hend hres => ?_,
    faults_store_pastEnd (exec_ldB x s) hlen,
    fun hprot hlow => faults_store_reserved (exec_ldB x s) hlen (by omega) hprot hlow⟩
  obtain ⟨hundreds, tens, ones⟩ := toNat_decimalDigits (s.reg x)
  have hread {k : Nat} (hk : k < (decimalDigits (s.reg x)).length) :
      (s.advance.storeBytes s.I.toNat (decimalDigits (s.reg x))).readByte (s.I.toNat + k) = (decimalDigits (s.reg x))[k] :=
    State.readByte_storeBytes_inside _ _ hk
  refine ⟨_, exec_ldB_inRange hend hres, ?_, ?_, ?_, fun a ha => State.readByte_storeBytes_outside (by omega), rfl,
    onlyChanges_storeBytes_advance _ _⟩
  · exact (congrArg BitVec.toNat (hread (k := 0) (by simp))).trans hundreds
  · exact (congrArg BitVec.toNat (hread (k := 1) (by simp))).trans tens
  · exact (congrArg BitVec.toNat (hread (k := 2) (by simp))).trans ones

/-! ### The store of a register range (45_index_memory.md R224) -/

/-- Settles O49. The registers are read back from the store; the write of `x + 1` bytes gives the two faults. -/
theorem registersStored : Obligations.RegistersStored := by
  intro s x
  have hx := x.isLt
  have hlen : (s.regsUpTo x).length = x.toNat + 1 := s.length_regsUpTo x
  refine ⟨decode_of_encode_eq (layoutXNN_eq_or_atX 0xF x 0x55), fun hend hres => ?_,
    faults_store_pastEnd (exec_ldMemVx x s) hlen,
    fun hprot hlow => faults_store_reserved (exec_ldMemVx x s) hlen (by omega) hprot hlow⟩
  exact ⟨_, exec_ldMemVx_inRange hend hres, fun k hk => State.readByte_storeBytes_regsUpTo _ _ _ hk,
    fun a ha => State.readByte_storeBytes_outside (by omega), rfl, onlyChanges_storeBytes_advance _ _⟩

/-! ### The load of a register range (45_index_memory.md R225) -/

/-- The state a completed Fx65 leaves. -/
def State.afterLdVxMem (s : State) (x : Nibble) : State :=
  s.advance.setRegsFrom 0 ((List.range (x.toNat + 1)).map fun k => s.readByte (s.I.toNat + k))

theorem exec_ldVxMem_inRange (hend : s.I.toNat + x.toNat ≤ 0xFFF) :
    exec (.ldVxMem x) s = .next (s.afterLdVxMem x) := by
  have hread : s.advance.memRead s.advance.dataAddr (x.toNat + 1) =
      .ok ((List.range (x.toNat + 1)).map fun k => s.readByte (s.I.toNat + k)) := by
    rw [State.memRead_eq, if_pos (by simp only [State.dataAddr, State.advance_I]; omega)]
    rfl
  unfold exec execLdVxMem
  exact runInstr_ok s (by simp only [hread]; rfl)

theorem exec_ldVxMem_pastEnd (hend : s.I.toNat + x.toNat > 0xFFF) : Faults (.ldVxMem x) s .outOfBoundsAccess := by
  have hread : s.advance.memRead s.advance.dataAddr (x.toNat + 1) = .error .outOfBoundsAccess := by
    rw [State.memRead_eq, if_neg (by simp only [State.dataAddr, State.advance_I]; omega)]
  unfold Faults exec execLdVxMem
  exact runInstr_error s (by simp only [hread])

theorem State.reg_afterLdVxMem (k : Nibble) :
    (s.afterLdVxMem x).reg k = if k.toNat ≤ x.toNat then s.readByte (s.I.toNat + k.toNat) else s.reg k := by
  have hx := x.isLt
  rw [State.afterLdVxMem, State.reg_setRegsFrom _ _ _ (by simp; omega)]
  by_cases hk : k.toNat ≤ x.toNat
  · rw [if_pos hk, dif_pos (by simp; omega)]
    simp
  · rw [if_neg hk, dif_neg (by simp; omega), State.reg_advance]

theorem State.onlyChanges_afterLdVxMem : OnlyChanges [.V, .pc] s (s.afterLdVxMem x) := by
  rw [State.afterLdVxMem, State.setRegsFrom_eq]
  simp [onlyChanges_iff, State.readByte]

theorem State.pc_afterLdVxMem : (s.afterLdVxMem x).pc = s.pc + 2 := by
  rw [State.afterLdVxMem, State.setRegsFrom_eq, State.advance_pc]

/-- Settles O50. A range inside memory leaves `State.afterLdVxMem`; a range past the end faults. -/
theorem registersLoaded : Obligations.RegistersLoaded := fun _ x =>
  ⟨decode_of_encode_eq (layoutXNN_eq_or_atX 0xF x 0x65),
    fun hend => ⟨_, exec_ldVxMem_inRange hend, State.reg_afterLdVxMem, State.pc_afterLdVxMem,
      State.onlyChanges_afterLdVxMem⟩,
    exec_ldVxMem_pastEnd⟩

/-- Settles O51. The load reads the range from the same `I`, where the store put the registers, whatever the registers hold
by then. -/
theorem storeThenLoadRestoresRegisters : Obligations.StoreThenLoadRestoresRegisters := by
  intro s x v hend hres
  refine ⟨_, _, exec_ldMemVx_inRange hend hres, exec_ldVxMem_inRange hend, fun k hk => ?_⟩
  rw [State.reg_afterLdVxMem, if_pos hk]
  exact State.readByte_storeBytes_regsUpTo s.advance s s.I.toNat hk

/-! ### The index register (45_index_memory.md R220 to R222) -/

/-- An instruction that completes by writing `I` alone advances the pc and changes nothing else. -/
theorem writesIndex_of_exec {w : Word} {n : Nat} (h : exec i s = .next { s.advance with I := w }) (hw : w.toNat = n) :
    ∃ t, exec i s = .next t ∧ t.I.toNat = n ∧ t.pc = s.pc + 2 ∧ OnlyChanges [.I, .pc] s t :=
  ⟨_, h, hw, rfl, by simp [onlyChanges_iff, State.readByte]⟩

theorem exec_ldI (nnn : Addr12) (s : State) : exec (.ldI nnn) s = .next { s.advance with I := zext16 nnn } := rfl

theorem exec_addI (x : Nibble) (s : State) :
    exec (.addI x) s = .next { s.advance with I := s.I + (s.reg x).setWidth 16 } := rfl

/-- Settles O46: the zero-extended operands have the operands' numbers. -/
theorem indexLoadAndAdd : Obligations.IndexLoadAndAdd := by
  refine fun s nnn x => ⟨decode_encode (.ldI nnn), decode_of_encode_eq (layoutXNN_eq_or_atX 0xF x 0x1E),
    writesIndex_of_exec (exec_ldI nnn s) (toNat_zext16 nnn), writesIndex_of_exec (exec_addI x s) ?_⟩
  rw [BitVec.toNat_add, BitVec.toNat_setWidth_of_le (by decide)]

theorem exec_ldF_of_regIndex {d : Nibble} (h : s.regIndex x = .ok d) :
    exec (.ldF x) s = .next { s.advance with I := glyphAddr s.cfg d } := by
  unfold exec execLdF
  exact runInstr_ok s (by simp only [State.regIndex_advance, h]; rfl)

theorem faults_ldF_of_regIndex (h : s.regIndex x = .error kind) : Faults (.ldF x) s kind := by
  unfold Faults exec execLdF
  exact runInstr_error s (by simp only [State.regIndex_advance, h])

/-- The largest glyph address, 0xFFF + 75, fits `I`. -/
theorem toNat_glyphAddr (c : Config) (d : Nibble) : (glyphAddr c d).toNat = c.fontBase.toNat + 5 * d.toNat := by
  have hbase := c.fontBase.isLt
  have hd := d.isLt
  rw [glyphAddr, BitVec.toNat_ofNat]
  omega

/-- Settles O47, by the two cases of the register as an index. -/
theorem glyphAddressOfDigit : Obligations.GlyphAddressOfDigit := by
  refine fun s x => ⟨decode_of_encode_eq (layoutXNN_eq_or_atX 0xF x 0x29), fun hx => ?_,
    fun hx => faults_ldF_of_regIndex (State.regIndex_of_gt hx)⟩
  have hd : (BitVec.ofNat 4 (s.reg x).toNat).toNat = (s.reg x).toNat := by
    rw [BitVec.toNat_ofNat]
    omega
  refine writesIndex_of_exec (exec_ldF_of_regIndex (State.regIndex_of_toNat_eq hd.symm)) ?_
  rw [toNat_glyphAddr, hd]

end Sys2Proof.Machine
end

section
/-! PROOFS. The timer and key-wait instructions (46_timers_input.md R250 to R253), the write of a key's state, and the end of
a key wait (R254; 60_exceptions.md R318): only a new key-down transition or a load that fits leaves it. -/

namespace Sys2Proof.Machine

variable {s t : State} {x k : Nibble} {p : Bool}

/-! ### The timer registers (46_timers_input.md R250, R252, R253) -/

theorem exec_ldVxDt (x : Nibble) (s : State) : exec (.ldVxDt x) s = .next (s.advance.setReg x s.DT) := rfl

theorem exec_ldDt (x : Nibble) (s : State) : exec (.ldDt x) s = .next { s.advance with DT := s.reg x } := rfl

theorem exec_ldSt (x : Nibble) (s : State) : exec (.ldSt x) s = .next { s.advance with ST := s.reg x } := rfl

@[simp] theorem State.soundActive_eq_true : s.soundActive = true ↔ s.ST ≠ 0 := by
  rw [State.soundActive, decide_eq_true_iff]
  bv_omega

/-- Settles O53: each instruction is one write on the advanced state. -/
theorem timerRegistersMoved : Obligations.TimerRegistersMoved := fun s x =>
  ⟨decode_of_encode_eq (layoutXNN_eq_or_atX 0xF x 0x07), decode_of_encode_eq (layoutXNN_eq_or_atX 0xF x 0x15),
    decode_of_encode_eq (layoutXNN_eq_or_atX 0xF x 0x18), writesReg_of_exec (exec_ldVxDt x s),
    ⟨_, exec_ldDt x s, rfl, rfl, by simp [onlyChanges_iff, State.readByte]⟩,
    ⟨_, exec_ldSt x s, rfl, State.soundActive_eq_true, rfl, by simp [onlyChanges_iff, State.readByte]⟩⟩

/-! ### The key wait (46_timers_input.md R251) -/

/-- The state an Fx0A leaves. -/
def State.waitForKey (s : State) (x : Nibble) : State := { s.advance with mode := .suspended x }

theorem exec_ldVxK (x : Nibble) (s : State) : exec (.ldVxK x) s = .next (s.waitForKey x) := rfl

@[simp] theorem State.waitForKey_mode : (s.waitForKey x).mode = .suspended x := rfl

@[simp] theorem State.waitForKey_pc : (s.waitForKey x).pc = s.pc + 2 := rfl

@[simp] theorem State.key_waitForKey : (s.waitForKey x).key k = s.key k := rfl

theorem State.onlyChanges_waitForKey : OnlyChanges [.mode, .pc] s (s.waitForKey x) := by
  simp [onlyChanges_iff, State.waitForKey, State.readByte]

/-- Settles O54. The keys are not read, so the effect is the same whatever keys are held. -/
theorem keyWaitSuspends : Obligations.KeyWaitSuspends := fun s x =>
  ⟨decode_of_encode_eq (layoutXNN_eq_or_atX 0xF x 0x0A), _, exec_ldVxK x s, State.waitForKey_mode, State.waitForKey_pc,
    State.onlyChanges_waitForKey⟩

/-! ### The write of a key's state (46_timers_input.md R254; 48_host_interface.md R273) -/

/-- A key that was up goes down while the engine waits: the write, then the resume. -/
theorem State.setKeyState_newPress (hm : s.mode = .suspended x) (hk : s.key k = false) :
    s.setKeyState k true = (s.setKey k true).resume x k := by
  simp [State.setKeyState, hm, hk]

/-- A key already down is no transition: only the latch is written, whatever the mode. -/
theorem State.setKeyState_held (hk : s.key k = true) : s.setKeyState k p = s.setKey k p := by
  rcases s.setKeyState_cases k p with ⟨_, -, -, hup, -⟩ | ⟨-, e⟩
  · rw [hk] at hup
    cases hup
  · exact e

@[simp] theorem State.key_setKeyState (j : Nibble) :
    (s.setKeyState k p).key j = if j = k then p else s.key j := by
  rcases s.setKeyState_cases k p with ⟨_, -, -, -, e⟩ | ⟨-, e⟩
  · exact e ▸ State.key_setKey s k j p
  · exact e ▸ State.key_setKey s k j p

theorem State.onlyChanges_setKey : OnlyChanges [.keys] s (s.setKey k p) := by
  simp [onlyChanges_iff, State.readByte]

theorem State.onlyChanges_setKey_resume : OnlyChanges [.keys, .V, .mode] s ((s.setKey k p).resume x k) := by
  simp [onlyChanges_iff, State.readByte]

theorem perform_setKeyState (s : State) (k : Nibble) (p : Bool) :
    perform (.setKeyState k.toNat p) s = .next (s.setKeyState k p, .done) := by
  simp [perform, k.isLt]

/-- The number of the byte a resume writes is the key's index. -/
theorem toNat_reg_resume (s : State) (x k : Nibble) : ((s.resume x k).reg x).toNat = k.toNat := by
  rw [State.reg_resume, if_pos rfl, BitVec.toNat_setWidth_of_le (by decide)]

/-! ### What a host operation does to the mode -/

/-- The ways an operation of the host can change the mode: a step, a new key-down transition that ends a wait, or a load
that fits. -/
theorem perform_mode_cases {op : HostOp} {r : HostReply} (ht : perform op s = .next (t, r)) :
    t.mode = s.mode ∨
      (op = .step ∧ step s = .next t) ∨
      (∃ x k : Nibble, op = .setKeyState k.toNat true ∧ s.mode = .suspended x ∧ s.key k = false ∧
        t = (s.setKey k true).resume x k) ∨
      ∃ bytes, op = .load bytes ∧ bytes.length ≤ 0xE00 ∧ t.mode = .running := by
  cases op with
  | load bytes =>
    rcases s.load_cases bytes with ⟨-, e⟩ | ⟨hlen, e⟩
    · rw [perform, e] at ht
      cases ht
      exact .inl rfl
    · rw [perform, e] at ht
      cases ht
      exact .inr (.inr (.inr ⟨bytes, rfl, hlen, rfl⟩))
  | step =>
    obtain ⟨u, hu⟩ := step_answers_next s
    cases (perform_step hu).symm.trans ht
    exact .inr (.inl ⟨rfl, hu⟩)
  | advanceTimers e =>
    rw [perform] at ht
    split_ifs at ht
    cases ht
    exact .inl rfl
  | setKeyState n p =>
    rw [perform] at ht
    split_ifs at ht with hn
    cases ht
    obtain ⟨k, rfl⟩ : ∃ k : Nibble, k.toNat = n := ⟨.ofNat 4 n, (BitVec.toNat_ofNat n 4).trans (Nat.mod_eq_of_lt hn)⟩
    rw [BitVec.ofNat_toNat, BitVec.setWidth_eq]
    rcases s.setKeyState_cases k p with ⟨x, hm, rfl, hk, e⟩ | ⟨-, e⟩
    · exact .inr (.inr (.inl ⟨x, k, rfl, hm, hk, e⟩))
    · exact .inl (e ▸ rfl)
  | framebufferSnapshot | soundActive | status =>
    cases ht
    exact .inl rfl

/-- Settles O25, by the two cases of the write: a new key-down transition of a waiting engine, or the latch alone. -/
theorem keyStateWriteAndResume : Obligations.KeyStateWriteAndResume := by
  refine fun s n p => ⟨?_, fun e t reply ht => ?_, fun hn => if_neg (by omega)⟩
  · rintro k rfl
    refine ⟨_, perform_setKeyState s k p, State.key_setKeyState, ?_⟩
    rcases s.setKeyState_cases k p with ⟨x, hm, hp, hk, e⟩ | ⟨hold, e⟩
    · rw [e]
      refine .inl ⟨x, hm, hp, hk, rfl, toNat_reg_resume _ x k, fun i hi => ?_, State.onlyChanges_setKey_resume⟩
      rw [State.reg_resume, if_neg hi, State.reg_setKey]
    · rw [e]
      exact .inr ⟨hold, State.onlyChanges_setKey⟩
  · rcases perform_mode_cases ht with hmode | ⟨hop, -⟩ | ⟨_, _, hop, -⟩ | ⟨_, hop, -⟩
    · exact hmode
    all_goals cases hop

/-- Settles O28. Of the operations that can change the mode, a step does nothing while the engine waits. -/
theorem suspendedLeftOnlyByKeyOrLoad : Obligations.SuspendedLeftOnlyByKeyOrLoad := by
  intro op s t x reply hm ht
  rcases perform_mode_cases ht with hmode | ⟨-, hstep⟩ | ⟨y, k, hop, hy, hk, rfl⟩ | hload
  · exact .inl (hmode.trans hm)
  · cases (step_idle (by simp [hm])).symm.trans hstep
    exact .inl hm
  · cases hm.symm.trans hy
    exact .inr (.inl ⟨k, hop, hk, rfl, toNat_reg_resume _ x k⟩)
  · exact .inr (.inr hload)

/-- Settles O55: the wait as Fx0A leaves it, then the two cases of the pressed key. -/
theorem keyWaitEndsOnNewPress : Obligations.KeyWaitEndsOnNewPress := by
  refine fun s x k hs hd => ⟨s.waitForKey x, (hs.step_eq_exec hd).trans (exec_ldVxK x s), step_idle (by simp),
    fun hk => ?_, fun hk => ?_⟩
  · rw [State.setKeyState_held (State.key_waitForKey.trans hk), State.setKey_mode, State.waitForKey_mode]
  · rw [State.setKeyState_newPress State.waitForKey_mode (State.key_waitForKey.trans hk)]
    refine ⟨rfl, rfl, toNat_reg_resume _ x k, ?_⟩
    simp [onlyChanges_iff, State.waitForKey, State.readByte]

end Sys2Proof.Machine
end

section
/-! PROOFS. The faults of a running step (60_exceptions.md R300, R302, R305): an instruction takes the fault that the table
gives it, and halts the engine in no other way; before it come the faults of fetch and decode. -/

namespace Sys2Proof.Machine

variable {s t : State} {i : Instr} {kind : FaultKind} {x : Nibble}

/-! ### The execute-phase faults -/

/-- What an instruction does by its row of the fault table: it takes the fault of the row or, when no fault applies,
completes and does not halt the engine. -/
def FollowsTable (i : Instr) (s : State) : Option FaultKind → Prop
  | some kind => Faults i s kind
  | none => ∃ t, exec i s = .next t ∧ ∀ r, t.mode = .halted r → s.mode = .halted r

theorem followsTable_ite {p : Prop} [Decidable p] {next : Option FaultKind} (hfault : p → Faults i s kind)
    (hnext : ¬p → FollowsTable i s next) : FollowsTable i s (if p then some kind else next) := by
  split_ifs with h
  · exact hfault h
  · exact hnext h

theorem followsTable_none (h : exec i s = .next t) (hmode : t.mode = s.mode) : FollowsTable i s none :=
  ⟨t, h, fun _ hr => hmode.symm.trans hr⟩

/-- A store of `n + 1` bytes from `I` up: bounds first, then the reserved area (20_memory.md R56). -/
theorem followsTable_store {bytes : State → List Byte} {n : Nat}
    (hi : exec i s = runInstr i s fun u => u.memWrite u.dataAddr (bytes u)) (hlen : (bytes s.advance).length = n + 1) :
    FollowsTable i s (if s.I.toNat + n > 0xFFF then some .outOfBoundsAccess
      else if s.cfg.protectReserved ∧ s.I.toNat ≤ 0x1FF then some .reservedWrite else none) := by
  refine followsTable_ite (faults_store_pastEnd hi hlen) fun hend => ?_
  refine followsTable_ite (fun ⟨hprot, hlow⟩ => faults_store_reserved hi hlen (by omega) hprot hlow) fun hres => ?_
  have hrange : s.I.toNat + (bytes s.advance).length ≤ 0x1000 := by omega
  have hwrite : s.advance.memWrite s.I.toNat (bytes s.advance) = .ok (s.advance.storeBytes s.I.toNat (bytes s.advance)) :=
    State.memWrite_inRange (List.ne_nil_of_length_eq_add_one hlen) hrange
      fun hprot => not_lt.1 fun hlow => hres ⟨hprot, by omega⟩
  exact followsTable_none (hi.trans (runInstr_ok s hwrite)) rfl

theorem State.regIndex_of_not_gt (h : ¬(s.reg x).toNat > 15) : s.regIndex x = .ok (BitVec.ofNat 4 (s.reg x).toNat) :=
  if_neg h

/-- By the row of the instruction; every instruction but nine has an empty one. -/
theorem exec_followsTable (i : Instr) (s : State) : FollowsTable i s (instrFault s i) := by
  cases i with
  | ret =>
    exact followsTable_ite exec_ret_empty fun h => followsTable_none (exec_ret_of_pos (Nat.pos_of_ne_zero h)) rfl
  | call nnn => exact followsTable_ite exec_call_full fun h => followsTable_none (exec_call_of_lt (by omega)) rfl
  | drw x y n =>
    exact followsTable_ite (fun ⟨hn, hend⟩ => exec_drw_pastEnd hn hend) fun h =>
      followsTable_none (exec_drw_inRange (by omega)) rfl
  | ldB x => exact followsTable_store (exec_ldB x s) (length_decimalDigits _)
  | ldMemVx x => exact followsTable_store (exec_ldMemVx x s) (State.length_regsUpTo _ x)
  | ldVxMem x =>
    exact followsTable_ite exec_ldVxMem_pastEnd fun hend =>
      followsTable_none (exec_ldVxMem_inRange (not_lt.1 hend)) (State.onlyChanges_afterLdVxMem .mode (by decide))
  | skp x =>
    exact followsTable_ite (fun h => faults_skp_of_regIndex (State.regIndex_of_gt h)) fun h =>
      followsTable_none (exec_skp_of_regIndex (State.regIndex_of_not_gt h)) (State.skipIf_mode _ _)
  | sknp x =>
    exact followsTable_ite (fun h => faults_sknp_of_regIndex (State.regIndex_of_gt h)) fun h =>
      followsTable_none (exec_sknp_of_regIndex (State.regIndex_of_not_gt h)) (State.skipIf_mode _ _)
  | ldF x =>
    exact followsTable_ite (fun h => faults_ldF_of_regIndex (State.regIndex_of_gt h)) fun h =>
      followsTable_none (exec_ldF_of_regIndex (State.regIndex_of_not_gt h)) rfl
  | seImm x v | sneImm x v | seReg x v | sneReg x v => exact followsTable_none rfl (State.skipIf_mode _ _)
  | ldVxK x => exact ⟨_, exec_ldVxK x s, fun _ hr => nomatch hr⟩
  | _ => exact followsTable_none rfl rfl

/-! ### The table of a step -/

theorem perform_step_takeFault {w : Option Word} (h : step s = .next (s.takeFault kind w)) :
    perform .step s = .next (s.takeFault kind w, .stepped (.fault ⟨kind, s.pc, w⟩)) := perform_step h

/-- Settles O7, in the order of the table: the two faults of the fetch, the decode, the instruction. -/
theorem runningStepFaultsByTable : Obligations.RunningStepFaultsByTable := by
  intro s hm
  unfold State.faultRecord
  have hf := s.fetch_eq
  split_ifs at hf ⊢ with hpc halign
  · exact perform_step_takeFault (step_fetchFault hm hf)
  · exact perform_step_takeFault (step_fetchFault hm hf)
  cases hd : decode (s.wordAt s.pc.toNat) with
  | error e => exact perform_step_takeFault (step_decodeFault hm hf hd)
  | ok i =>
    have hstep : step s = exec i s := step_decoded hm hf hd
    have htable := exec_followsTable i s
    dsimp only
    cases hi : instrFault s i with
    | some kind =>
      rw [hi] at htable
      rw [← encode_of_decode hd]
      exact perform_step_takeFault (hstep.trans htable)
    | none =>
      rw [hi] at htable
      obtain ⟨t, ht, hmode⟩ := htable
      exact ⟨t, perform_step (hstep.trans ht), fun r hr => by cases hm.symm.trans (hmode r hr)⟩

end Sys2Proof.Machine
end

section
/-! PROOFS. The invariant through every operation of the host; the timers' advance (60_exceptions.md R310 to R312), the load
(48_host_interface.md R271, R272; 70_reset_and_hazards.md R340, R341) and the queries (48_host_interface.md R274, R275,
R279). -/

namespace Sys2Proof.Machine

variable {s : State} {c : Config} {bytes : List Byte}

/-- Settles O17, by the operations in `perform_keepsInv`. -/
theorem hostOperationsKeepInvariant : Obligations.HostOperationsKeepInvariant :=
  fun _ _ _ _ hs ht => (perform_keepsInv hs ht).1

/-! ### The timers' advance -/

theorem perform_advanceTimers {e : Rat} (he : 0 ≤ e) :
    perform (.advanceTimers e) s = .next (s.advanceTimers e, .done) := if_neg (not_lt.2 he)

theorem State.onlyChanges_advanceTimers (e : Rat) : OnlyChanges [.acc, .DT, .ST] s (s.advanceTimers e) := by
  simp [onlyChanges_iff, State.readByte]

theorem decay_zero (v : Byte) : decay v 0 = v := BitVec.eq_of_toNat_eq (toNat_decay v 0)

theorem decay_decay (v : Byte) (j k : Nat) : decay (decay v j) k = decay v (j + k) := by
  apply BitVec.eq_of_toNat_eq
  rw [toNat_decay, toNat_decay, toNat_decay, Nat.sub_sub]

/-- Time put off by whole ticks has those ticks more. -/
theorem ticksIn_add_ticks {r : Rat} (hr : 0 ≤ r) (k : Nat) : ticksIn (r + k / 60) = ticksIn r + k := by
  obtain ⟨hlo, hhi⟩ := ticksIn_bounds hr
  apply ticksIn_unique <;> push_cast <;> linarith

/-- Less than a tick in the accumulator and no time elapsed: no tick passes. -/
theorem State.advanceTimers_zero (h0 : 0 ≤ s.acc) (h1 : s.acc < 1 / 60) : s.advanceTimers 0 = s := by
  have hk : ticksIn s.acc = 0 := ticksIn_unique (by simpa using h0) (by simpa using h1)
  simp [State.advanceTimers, hk, decay_zero]

/-- Settles O23: `k` is the number of whole ticks in the accumulated time. -/
theorem advanceTimersConsumesTicks : Obligations.AdvanceTimersConsumesTicks := by
  intro s e hacc hlt he
  obtain ⟨hlo, hhi⟩ := ticksIn_bounds (add_nonneg hacc he)
  have hrest : (s.advanceTimers e).acc = s.acc + e - (ticksIn (s.acc + e) : Rat) / 60 := s.advanceTimers_acc e
  refine ⟨_, ticksIn (s.acc + e), perform_advanceTimers he, hlo, hhi, hrest, ?_, ?_, toNat_decay _ _, toNat_decay _ _,
    State.onlyChanges_advanceTimers e, ?_⟩
  · rw [hrest]
    linarith
  · rw [hrest]
    linarith
  · rintro rfl
    exact State.advanceTimers_zero hacc hlt

/-- The ticks of a time and then those of what they leave of it, with the time that goes on, are the ticks of the whole. -/
theorem ticksIn_add {t e : Rat} (ht : 0 ≤ t) (he : 0 ≤ e) :
    ticksIn (t + e) = ticksIn t + ticksIn (t - (ticksIn t : Rat) / timerHz + e) := by
  obtain ⟨hlo, -⟩ := ticksIn_bounds ht
  have hrest : 0 ≤ t - (ticksIn t : Rat) / 60 + e := by linarith
  calc ticksIn (t + e) = ticksIn (t - (ticksIn t : Rat) / 60 + e + (ticksIn t : Rat) / 60) := by congr 1; ring
    _ = ticksIn t + ticksIn (t - (ticksIn t : Rat) / 60 + e) := by rw [ticksIn_add_ticks hrest, Nat.add_comm]

/-- Settles O24: the ticks of the two calls add up to those of the one. -/
theorem timerDecayIndependentOfCalls : Obligations.TimerDecayIndependentOfCalls := by
  intro s e₁ e₂ hacc h₁ h₂
  have hticks := ticksIn_add (add_nonneg hacc h₁) h₂
  simp only [State.advanceTimers, decay_decay, ← add_assoc, hticks, State.mk.injEq, true_and, and_true]
  push_cast
  ring

/-! ### The load -/

/-- The state a load of an image that fits leaves. -/
def State.afterLoad (s : State) (bytes : List Byte) : State :=
  { (State.powerOn s.cfg).storeBytes 0x200 bytes with draws := s.draws }

theorem perform_load_fits (h : bytes.length ≤ 0xE00) :
    perform (.load bytes) s = .next (s.afterLoad bytes, .loaded .ok) := by
  rcases s.load_cases bytes with ⟨hlong, -⟩ | ⟨-, e⟩
  · omega
  · rw [perform, e]
    rfl

/-- Settles O21, by the two cases of a load. -/
theorem oversizedLoadChangesNothing : Obligations.OversizedLoadChangesNothing := by
  intro s bytes h
  rcases s.load_cases bytes with ⟨-, e⟩ | ⟨hfits, -⟩
  · rw [perform, e]
  · omega

theorem State.readByte_powerOn (a : Nat) : (State.powerOn c).readByte a = resetByte c a := rfl

/-- The glyphs at `FONT_BASE`, read as a list. -/
theorem resetByte_eq (c : Config) (a : Nat) :
    resetByte c a = if c.fontBase.toNat ≤ a ∧ a < c.fontBase.toNat + 80 then
      c.fontData.toList.getD (a - c.fontBase.toNat) 0 else 0 := by
  unfold resetByte
  split_ifs with h
  · have hlen : a - c.fontBase.toNat < c.fontData.toList.length := by
      rw [Vector.length_toList]
      omega
    rw [List.getD_eq_getElem _ _ hlen, Vector.getElem_toList]
  · rfl

theorem State.readByte_afterLoad (a : Nat) : (s.afterLoad bytes).readByte a =
    if 0x200 ≤ a ∧ a < 0x200 + bytes.length then bytes.getD (a - 0x200) 0 else resetByte s.cfg a := by
  refine ((State.powerOn s.cfg).readByte_storeBytes 0x200 a bytes).trans ?_
  split_ifs with h
  · rw [List.getD_eq_getElem]
  · exact State.readByte_powerOn a

/-- Settles O20: what a load that fits leaves is power-on memory with the image stored, and power-on everywhere else. -/
theorem loadResetsAndPlacesImage : Obligations.LoadResetsAndPlacesImage := by
  intro s bytes h
  refine ⟨s.afterLoad bytes, perform_load_fits h, fun a _ => ?_, fun k => ?_, rfl, rfl, rfl, fun k => ?_, rfl, rfl, rfl,
    Framebuffer.pixel_clear, fun k => ?_, rfl, rfl⟩
  · rw [State.readByte_afterLoad, resetByte_eq]
  · exact Vector.getElem_replicate k.isLt
  · exact Vector.getElem_replicate k.isLt
  · exact Vector.getElem_replicate k.isLt

/-- The entry point lies above the glyphs of a well-formed configuration. -/
theorem resetByte_of_wellFormed (hc : c.WellFormed) {a : Nat} (ha : 0x200 ≤ a) : resetByte c a = 0 :=
  dif_neg (by omega)

/-- Settles O22. The empty load stores nothing; the step fetches two reset bytes, and their word is in no row. -/
theorem powerOnIsEmptyLoad : Obligations.PowerOnIsEmptyLoad := by
  refine fun c hc => ⟨perform_load_fits (Nat.zero_le _), ?_⟩
  have hpc : (State.powerOn c).pc.toNat = 0x200 := rfl
  have hword : (State.powerOn c).wordAt 0x200 = 0x0000 := by
    rw [State.wordAt, State.readByte_powerOn, State.readByte_powerOn, resetByte_of_wellFormed hc (by decide),
      resetByte_of_wellFormed hc (by decide)]
    rfl
  have hfetch : (State.powerOn c).fetch = .ok 0x0000 := by
    rw [State.fetch_eq, hpc, hword, if_neg (by decide), if_neg (by simp)]
  exact step_decodeFault (r := .unrecognized 0) rfl hfetch (by decide)

/-! ### The queries -/

/-- Settles O29. Only the sound answer needs an argument: `ST > 0` says `ST ≠ 0`. -/
theorem queriesOnlyRead : Obligations.QueriesOnlyRead := by
  refine fun s => ⟨⟨s.fb, rfl, fun _ _ => rfl⟩, ?_, rfl⟩
  have hsound : s.soundActive = decide (s.ST ≠ 0) := by rw [Bool.eq_iff_iff, State.soundActive_eq_true, decide_eq_true_iff]
  rw [perform, hsound]

end Sys2Proof.Machine
end

section
/-! PROOFS. Sequences of calls: the wholesale poll of the keys (48_host_interface.md R273), the operations that a halted
engine answers (60_exceptions.md R303, R304), and the runs that end badly (70_reset_and_hazards.md R347, R349). -/

namespace Sys2Proof.Machine

variable {s t : State} {parts parts' : List Part} {x k : Nibble} {pressed : Vector Bool 16} {ks : List Nibble}
  {op : HostOp} {rest : List HostOp}

/-! ### The poll of the keys -/

theorem OnlyChanges.mono (h : OnlyChanges parts s t) (hsub : parts ⊆ parts') : OnlyChanges parts' s t :=
  fun p hp => h p fun hp' => hp (hsub hp')

theorem State.reg_of_onlyChanges (h : OnlyChanges parts s t) (hV : .V ∉ parts) (j : Nibble) : t.reg j = s.reg j :=
  congrArg (fun V : Vector Byte 16 => V[j.toNat]'j.isLt) (h .V hV)

/-- The state after the calls of a poll for the keys `ks`, in this order. -/
def State.pollList (s : State) (pressed : Vector Bool 16) (ks : List Nibble) : State :=
  ks.foldl (fun t k => t.setKeyState k (pressed[k.toNat]'k.isLt)) s

theorem State.pollKeys_eq_pollList : s.pollKeys pressed = s.pollList pressed keyOrder := rfl

theorem State.pollList_cons : s.pollList pressed (k :: ks) =
    (s.setKeyState k (pressed[k.toNat]'k.isLt)).pollList pressed ks := rfl

theorem State.pollList_append (ks ks' : List Nibble) :
    s.pollList pressed (ks ++ ks') = (s.pollList pressed ks).pollList pressed ks' := List.foldl_append

/-- Each polled key ends as polled, every other key as before. -/
theorem State.key_pollList (s : State) (pressed : Vector Bool 16) (ks : List Nibble) (j : Nibble) :
    (s.pollList pressed ks).key j = if j ∈ ks then pressed[j.toNat]'j.isLt else s.key j := by
  induction ks generalizing s with
  | nil => rfl
  | cons k ks ih =>
    rw [State.pollList_cons, ih, State.key_setKeyState]
    by_cases hk : j = k
    · subst hk
      simp
    · simp [hk]

theorem keys_eq_of_key_eq (h : ∀ j : Nibble, s.key j = pressed[j.toNat]'j.isLt) : s.keys = pressed := by
  apply Vector.ext
  intro i hi
  simpa [State.key, Nat.mod_eq_of_lt hi] using h (BitVec.ofNat 4 i)

theorem State.keys_pollKeys : (s.pollKeys pressed).keys = pressed := by
  refine keys_eq_of_key_eq fun j => ?_
  have hj : j ∈ keyOrder := by revert j; decide
  rw [State.pollKeys_eq_pollList, State.key_pollList, if_pos hj]

/-- Calls that are no new key-down transition of a waiting engine write the latch only. -/
theorem State.onlyChanges_pollList
    (h : ∀ x, s.mode = .suspended x → ∀ j ∈ ks, ¬(pressed[j.toNat]'j.isLt = true ∧ s.key j = false)) :
    OnlyChanges [.keys] s (s.pollList pressed ks) := by
  induction ks generalizing s with
  | nil => exact fun p _ => Part.Same.refl p s
  | cons k ks ih =>
    rw [State.pollList_cons]
    rcases s.setKeyState_cases k (pressed[k.toNat]'k.isLt) with ⟨x, hm, hp, hk, -⟩ | ⟨-, e⟩
    · exact absurd ⟨hp, hk⟩ (h x hm k List.mem_cons_self)
    · rw [e]
      refine State.onlyChanges_setKey.trans (ih fun x hm j hj => ?_)
      have hold := h x hm j (List.mem_cons_of_mem k hj)
      rw [State.key_setKey]
      split_ifs with hjk
      · subst hjk
        simp
      · exact hold

/-- The polled keys below `k`, then `k`, then the others. -/
theorem keyOrder_split (k : Nibble) :
    keyOrder = keyOrder.take k.toNat ++ k :: keyOrder.drop (k.toNat + 1) ∧
      ∀ j ∈ keyOrder.take k.toNat, j.toNat < k.toNat := by
  revert k
  decide

theorem State.onlyChanges_resume : OnlyChanges [.V, .mode] s (s.resume x k) := by
  simp [onlyChanges_iff, State.readByte]

/-- A poll in which `k` is the first key that newly goes down: up to `k` the calls write the latch only, the call for `k`
resumes, and the others find a running engine. -/
theorem State.pollList_resumes {before after : List Nibble} (hm : s.mode = .suspended x)
    (hp : pressed[k.toNat]'k.isLt = true) (hk : s.key k = false)
    (hbefore : ∀ j ∈ before, ¬(pressed[j.toNat]'j.isLt = true ∧ s.key j = false)) :
    ∃ t, OnlyChanges [.keys] s t ∧ OnlyChanges [.keys] (t.resume x k) (s.pollList pressed (before ++ k :: after)) := by
  have hpolled : OnlyChanges [.keys] s (s.pollList pressed before) := State.onlyChanges_pollList fun _ _ => hbefore
  have hmode : (s.pollList pressed before).mode = s.mode := hpolled .mode (by decide)
  have hkey : (s.pollList pressed before).key k = false := by
    rw [State.key_pollList, if_neg fun hmem => hbefore k hmem ⟨hp, hk⟩, hk]
  refine ⟨(s.pollList pressed before).setKey k true, hpolled.trans State.onlyChanges_setKey, ?_⟩
  rw [State.pollList_append, State.pollList_cons, hp, State.setKeyState_newPress (hmode.trans hm) hkey]
  exact State.onlyChanges_pollList fun _ hsus => nomatch hsus

/-- Settles O26. The keys before `k` in the order of the poll are those below it. -/
theorem pollResumesWithLowestKey : Obligations.PollResumesWithLowestKey := by
  intro s x k pressed hm hp hk hlow
  obtain ⟨hsplit, hbelow⟩ := keyOrder_split k
  obtain ⟨t, hst, ht⟩ := State.pollList_resumes (after := keyOrder.drop (k.toNat + 1)) hm hp hk
    fun j hj => hlow j (hbelow j hj)
  rw [← hsplit, ← State.pollKeys_eq_pollList] at ht
  have hreg := State.reg_of_onlyChanges ht (by decide)
  refine ⟨ht .mode (by decide), ?_, fun j hj => ?_, State.keys_pollKeys, ?_⟩
  · rw [hreg]
    exact toNat_reg_resume t x k
  · rw [hreg, State.reg_resume, if_neg hj]
    exact State.reg_of_onlyChanges hst (by decide) j
  · exact ((hst.mono (by decide)).trans (State.onlyChanges_resume.mono (by decide))).trans (ht.mono (by decide))

/-! ### A halted engine -/

/-- Settles O27. Of the operations that can change the mode, a step does nothing and no key is waited for. -/
theorem haltedLeftOnlyByLoad : Obligations.HaltedLeftOnlyByLoad := by
  intro s rec hm
  have hidle : perform .step s = .next (s, .stepped (.fault rec)) := (idleStepChangesNothing s).2 rec hm
  refine ⟨fun op t reply ht => ?_, hidle, fun e he => perform_advanceTimers he, fun k p => ?_, rfl, rfl, ?_⟩
  · rcases perform_mode_cases ht with hmode | ⟨rfl, -⟩ | ⟨_, _, -, hsus, -⟩ | hload
    · exact .inl (hmode.trans hm)
    · cases hidle.symm.trans ht
      exact .inl hm
    · cases hm.symm.trans hsus
    · exact .inr hload
  · refine ⟨_, perform_setKeyState s k p, State.key_setKeyState, ?_⟩
    rcases s.setKeyState_cases k p with ⟨_, hsus, -⟩ | ⟨-, e⟩
    · cases hm.symm.trans hsus
    · exact e ▸ State.onlyChanges_setKey
  · exact congrArg (fun m => Host.Outcome.next (s, HostReply.mode m)) hm

/-! ### Runs that end badly -/

/-- A call that neither ends a wait nor loads an image that fits leaves the mode of an idle engine. -/
theorem State.mode_afterCall (hidle : s.mode ≠ .running) (hload : ∀ bytes, op = .load bytes → bytes.length > 0xE00)
    (hkey : ∀ x, s.mode = .suspended x → s.keyDown op = false) : (s.afterCall op).mode = s.mode := by
  rcases s.afterCall_cases op with ⟨t, r, ht, e⟩ | ⟨-, e⟩
  · rw [e]
    rcases perform_mode_cases ht with hmode | ⟨-, hstep⟩ | ⟨x, k, hop, hsus, hk, -⟩ | ⟨bytes, hop, hfits, -⟩
    · exact hmode
    · cases (step_idle hidle).symm.trans hstep
      rfl
    · cases (hkey x hsus).symm.trans (s.keyDown_eq_true.2 ⟨k, hop, hk⟩)
    · exact absurd (hload bytes hop) (not_lt.2 hfits)
  · rw [e]

/-- A key-down transition ends a wait. -/
theorem State.mode_afterCall_keyDown (hm : s.mode = .suspended x) (h : s.keyDown op = true) :
    (s.afterCall op).mode = .running := by
  obtain ⟨k, rfl, hk⟩ := s.keyDown_eq_true.1 h
  rw [State.afterCall_of_next (perform_setKeyState s k true), State.setKeyState_newPress hm hk, State.resume_mode]

theorem State.EndedBadly.mode_ne_running (h : s.EndedBadly rest) : s.mode ≠ .running := by
  rcases h with ⟨r, hm⟩ | ⟨⟨x, hm⟩, -⟩ <;> simp [hm]

/-- A run that ended badly keeps its mode through the next call and is still so. -/
theorem State.EndedBadly.afterCall (h : s.EndedBadly (op :: rest))
    (hload : ∀ bytes, op = .load bytes → bytes.length > 0xE00) :
    (s.afterCall op).mode = s.mode ∧ (s.afterCall op).EndedBadly rest := by
  have hidle := h.mode_ne_running
  rcases h with ⟨r, hm⟩ | ⟨⟨x, hm⟩, hsupply⟩
  · have hmode := State.mode_afterCall hidle hload fun x hsus => nomatch hm.symm.trans hsus
    exact ⟨hmode, .inl ⟨r, hmode.trans hm⟩⟩
  · rw [State.suppliesKeyDown_cons, Bool.or_eq_false_iff] at hsupply
    obtain ⟨hkey, hrest⟩ := hsupply
    have hmode := State.mode_afterCall hidle hload fun _ _ => hkey
    exact ⟨hmode, .inr ⟨⟨x, hmode.trans hm⟩, hrest⟩⟩

theorem State.EndedBadly.mode_afterCalls (h : s.EndedBadly rest)
    (hload : ∀ bytes, .load bytes ∈ rest → bytes.length > 0xE00) : (s.afterCalls rest).mode = s.mode := by
  induction rest generalizing s with
  | nil => rfl
  | cons op rest ih =>
    obtain ⟨hmode, hnext⟩ := h.afterCall fun bytes hop => hload bytes (hop ▸ List.mem_cons_self)
    rw [State.afterCalls_cons, ih hnext fun bytes hb => hload bytes (List.mem_cons_of_mem op hb), hmode]

/-- The calls up to the first key-down transition end the wait. -/
theorem State.running_of_suppliesKeyDown (hm : s.mode = .suspended x) (h : s.suppliesKeyDown rest = true)
    (hload : ∀ bytes, .load bytes ∈ rest → bytes.length > 0xE00) :
    ∃ before, before <+: rest ∧ (s.afterCalls before).mode = .running := by
  induction rest generalizing s with
  | nil => cases h
  | cons op rest ih =>
    cases hkey : s.keyDown op with
    | true =>
      exact ⟨[op], List.prefix_append [op] rest, State.mode_afterCall_keyDown hm hkey⟩
    | false =>
      have hmode : (s.afterCall op).mode = s.mode := State.mode_afterCall (by simp [hm])
        (fun bytes hop => hload bytes (hop ▸ List.mem_cons_self)) fun _ _ => hkey
      rw [State.suppliesKeyDown_cons, hkey, Bool.false_or] at h
      obtain ⟨before, hpre, hrun⟩ := ih (hmode.trans hm) h fun bytes hb => hload bytes (List.mem_cons_of_mem op hb)
      exact ⟨op :: before, List.cons_prefix_cons.2 ⟨rfl, hpre⟩, hrun⟩

/-- Settles O15, by induction on the calls. -/
theorem badEndLastsWithoutLoad : Obligations.BadEndLastsWithoutLoad := fun _ _ hload =>
  ⟨fun h => h.mode_afterCalls hload, fun _ hm hsupply => State.running_of_suppliesKeyDown hm hsupply hload⟩

end Sys2Proof.Machine
end
